-- ==== Sys2Proof/Word.lean ====
section
/-! DEFINITION. The word type: every register, operand and data transfer of CORE is 32 bits wide (R10, R20, R45). -/

namespace Sys2Proof

/-- An unsigned 32-bit word (R10, R20); bit 0 is the least significant (R12). -/
abbrev Word := BitVec 32

/-- A table of 32 words, indexed by an exponent 0..31 (R10, R35). -/
abbrev Table := Vector Word 32

end Sys2Proof
end

