-- ==== Sys2Proof/Machine/Operands.lean ====
section
/-! DEFINITION. Widths and operand assembly: the pseudocode primitives of R13 and the 64-bit pairs of R12, R47, R62
and R64. -/

namespace Sys2Proof.Machine

/-- `trunc32(v)` = v mod 2^32 (R13). -/
def trunc32 (v : Nat) : Word := BitVec.ofNat 32 v

/-- `trunc64(v)` = v mod 2^64 (R13). -/
def trunc64 (v : Nat) : Nat := v % 2 ^ 64

/-- Bits 31:0 of a 64-bit value (R12, R64). -/
def lowHalf (v : Nat) : Word := trunc32 v

/-- Bits 63:32 of a 64-bit value (R12, R64). -/
def highHalf (v : Nat) : Word := trunc32 (v / 2 ^ 32)

/-- The value of the pair written high half first: `hi*2^32 + lo` (R12, R47). -/
def pairValue (hi lo : Word) : Nat := hi.toNat * 2 ^ 32 + lo.toNat

end Sys2Proof.Machine
end

