-- ==== Sys2Proof/Syntax.lean ====
section
/-! DEFINITION. The commands of CORE, one constructor per row of spec/opcode_table.json (R60). A command word carries
no register number, immediate, width or mode field (R58, R63), so no constructor has an argument: every operand comes
from the registers A, B and C (R62). -/

namespace Sys2Proof

/-- The eight commands, in the order of R60. -/
inductive Instr where
  | clz
  | mulw
  | mul
  | udiv
  | umod
  | sll64
  | srl64
  | rsqrt
  deriving DecidableEq, Repr

end Sys2Proof
end

