-- ==== Sys2Proof/Machine/Types.lean ====
section
/-! DEFINITION. The plain data the machine is made of: the register slots of the window, a bus access, the result of
a command, the in-flight latch, the host-script statements of R66, and the inputs that say which agent moves next. -/

namespace Sys2Proof.Machine

/-- The eight word slots of the register window (R20, R44, R46), named as R66's `reg`. -/
inductive Reg where
  | a | b | c | cmd | resLo | resHi | status | rsvd
  deriving DecidableEq, Repr

/-- The width of a bus access in bits. Only 32 has a meaning (R45). -/
inductive Width where
  | bits8 | bits16 | bits32 | bits64
  deriving DecidableEq, Repr

/-- What a bus access asks for. A fetch is an instruction fetch by the host (R55). -/
inductive AccessKind where
  | read
  | write (v : Word)
  | fetch
  deriving DecidableEq, Repr

/-- One access by the host at a byte address of its own address space (R42, R44). -/
structure Access where
  kind  : AccessKind
  width : Width
  addr  : Nat
  deriving DecidableEq, Repr

/-- One entry of a trace: the access triple of R68, with the word written or the word the read returned. -/
inductive BusEvent where
  | write (r : Reg) (v : Word)
  | read (r : Reg) (v : Word)
  deriving DecidableEq, Repr

/-- What `exec(op, a, b, c)` of R15 returns. -/
structure Result where
  lo  : Word
  hi  : Word
  dz  : Bool
  inf : Bool
  deriving DecidableEq, Repr

/-- A command in flight: the tuple PEND holds (R34). Its 4-bit command code is held as the command it stands for;
`opcode` gives the code. -/
structure Pending where
  op : Instr
  a  : Word
  b  : Word
  c  : Word
  deriving DecidableEq, Repr

/-- A host variable `t0` to `t7` of the host-script language (R66). -/
abbrev Var := Fin 8

/-- The source of a `WR` statement (R66): an immediate, a variable, or a mnemonic, which stands for its word. -/
inductive Src where
  | imm (v : Word)
  | var (t : Var)
  | mnemonic (m : Instr)
  deriving DecidableEq, Repr

/-- A statement of the host-script language (R66), over a type of branch targets: label names as written, statement
numbers once assembled. -/
inductive Stmt (target : Type) where
  | wr (r : Reg) (src : Src)
  | rd (t : Var) (r : Reg)
  | bs (t : Var) (n : Fin 32) (l : target)
  | bc (t : Var) (n : Fin 32) (l : target)
  | halt
  deriving DecidableEq, Repr

/-- A label, named by a number. -/
abbrev Label := Nat

/-- A line of a program as written: a statement of R66 or a pseudo-instruction of R67. -/
inductive Line where
  | stmt (s : Stmt Label)
  | wait
  | issue (m : Instr)
  | do1 (m : Instr) (x : Src)
  | do2 (m : Instr) (x y : Src)
  | do3 (m : Instr) (lo hi amount : Src)
  | clrErr
  deriving DecidableEq, Repr

/-- A line with the label that may stand before it (R66). -/
structure LabelledLine where
  label : Option Label := none
  line  : Line
  deriving DecidableEq, Repr

/-- An assembled program: branch targets are statement numbers, counted from 0. -/
abbrev Program := List (Stmt Nat)

/-- The host that runs a script (R66): its program, its statement counter `hpc`, its eight variables (`none` is a
variable nothing has written), and whether it has executed HALT (R82). -/
structure ScriptHost where
  program : Program
  hpc     : Nat
  vars    : Vector (Option Word) 8
  halted  : Bool
  deriving DecidableEq, Repr

/-- Which of the three agents of R18 moves next, and how (R80). -/
inductive Input where
  /-- the host makes one access on the bus -/
  | bus (acc : Access)
  /-- the host runs the next statement of its script -/
  | host
  /-- the execution unit takes its completion step, if it has one -/
  | complete
  /-- the reset input is asserted -/
  | resetAssert
  /-- the reset input is released -/
  | resetRelease
  deriving DecidableEq, Repr

end Sys2Proof.Machine
end

