-- ==== Sys2Proof/WellFormed.lean ====
section
/-! DEFINITION. Well-formedness: the legality of a command word (R59) and the checks on a host-script program
(R66, R67). A command has no operand field (R58), so every term of `Instr` is well-formed and needs no check. -/

namespace Sys2Proof

/-- The reserved field `w[31:4]` is 0 (R58). -/
def rsvClear (w : Word) : Bool := w.toNat / 16 == 0

/-- The command code `w[3:0]` is one of the eight codes 0x1 to 0x8 (R60). -/
def opAssigned (w : Word) : Bool := 1 ≤ w.toNat % 16 && w.toNat % 16 ≤ 8

/-- A command word is legal exactly when both checks hold (R59). -/
def legalWord (w : Word) : Bool := rsvClear w && opAssigned w

namespace Machine

/-- A `DO1`, `DO2` or `DO3` line names a command that takes that many operands (R67). -/
def Line.wf : Line → Bool
  | .stmt _ => true
  | .wait => true
  | .issue _ => true
  | .do1 m _ => m == .clz || m == .rsqrt
  | .do2 m _ _ => m == .mulw || m == .mul || m == .udiv || m == .umod
  | .do3 m _ _ _ => m == .sll64 || m == .srl64
  | .clrErr => true

/-- A branch of an assembled program targets one of its `n` statements (R66). -/
def Stmt.targetBelow (n : Nat) : Stmt Nat → Bool
  | .bs _ _ l => l < n
  | .bc _ _ l => l < n
  | .wr _ _ => true
  | .rd _ _ => true
  | .halt => true

/-- Every branch of an assembled program targets one of its statements (R66). -/
def Program.wf (p : Program) : Bool := p.all (Stmt.targetBelow p.length)

end Machine
end Sys2Proof
end

