-- ==== Sys2Proof/Decode.lean ====
section
/-! DEFINITION. The decoder of command words, total on all 2^32 words and rejecting by name (R59, R61), the encoder
written from the same table (R60), and the mnemonics (R65). -/

namespace Sys2Proof

/-- Why a command word is reserved (R61). -/
inductive ReservedWord where
  /-- RSV, `w[31:4]`, is not 0 -/
  | rsvNonzero
  /-- OP = 0x0 -/
  | opZero
  /-- OP in 0x9..0xF -/
  | opUnassigned
  deriving DecidableEq, Repr

/-- What a command word decodes to (R59): `Cmd(op)` or `Reserved`. -/
inductive Decoded where
  | command (i : Instr)
  | reserved (why : ReservedWord)
  deriving DecidableEq, Repr

/-- OP, bits 3:0 of the command word (R58). -/
def opField (w : Word) : BitVec 4 := w.extractLsb' 0 4

/-- RSV, bits 31:4 of the command word (R58). -/
def rsvField (w : Word) : BitVec 28 := w.extractLsb' 4 28

/-- The OP column of R60 read from left to right: the command a code stands for. -/
def commandOf (op : BitVec 4) : Option Instr :=
  match op.toNat with
  | 0x1 => some .clz
  | 0x2 => some .mulw
  | 0x3 => some .mul
  | 0x4 => some .udiv
  | 0x5 => some .umod
  | 0x6 => some .sll64
  | 0x7 => some .srl64
  | 0x8 => some .rsqrt
  | _ => none

/-- The decoder (R59). It reads the word alone (R70). -/
def decode (w : Word) : Decoded :=
  if rsvField w ≠ 0 then .reserved .rsvNonzero
  else if opField w = 0 then .reserved .opZero
  else match commandOf (opField w) with
    | some i => .command i
    | none => .reserved .opUnassigned

/-- The command a word stands for, if it is legal. -/
def Decoded.command? : Decoded → Option Instr
  | .command i => some i
  | .reserved _ => none

/-- The 4-bit command code of a command (R60). -/
def opcode : Instr → BitVec 4
  | .clz => 0x1
  | .mulw => 0x2
  | .mul => 0x3
  | .udiv => 0x4
  | .umod => 0x5
  | .sll64 => 0x6
  | .srl64 => 0x7
  | .rsqrt => 0x8

/-- The command word of a command: RSV = 0 above its code (R58, R60). -/
def encode (i : Instr) : Word := 0#28 ++ opcode i

/-- The command word whose bits are `w`, when `nbits` and `w` describe one: a command word has 32 bits, and CORE has no
other length (R57). Byte order does not enter, since a whole word moves (R48). -/
def tableWord (nbits w : Nat) : Option Word :=
  if nbits = 32 ∧ w < 2 ^ 32 then some (BitVec.ofNat 32 w) else none

/-- The instruction the decoder reads from the word whose bits are `w`, numbered as the opcode table numbers them. -/
def decodeTableWord (nbits w : Nat) : Option Instr :=
  match tableWord nbits w with
  | some v => (decode v).command?
  | none => none

/-- The mnemonic of a command (R65). -/
def mnemonic : Instr → String
  | .clz => "CLZ"
  | .mulw => "MULW"
  | .mul => "MUL"
  | .udiv => "UDIV"
  | .umod => "UMOD"
  | .sll64 => "SLL64"
  | .srl64 => "SRL64"
  | .rsqrt => "RSQRT"

/-- The command a name stands for: a mnemonic, or one of the source's function names, its aliases (R65). MUL has no
alias. -/
def commandNamed : String → Option Instr
  | "CLZ" => some .clz
  | "MULW" => some .mulw
  | "MUL" => some .mul
  | "UDIV" => some .udiv
  | "UMOD" => some .umod
  | "SLL64" => some .sll64
  | "SRL64" => some .srl64
  | "RSQRT" => some .rsqrt
  | "count_leading_zeros" => some .clz
  | "mul_u32_widening" => some .mulw
  | "udiv" => some .udiv
  | "umod" => some .umod
  | "shift_left_64" => some .sll64
  | "shift_right_logical_64" => some .srl64
  | "fast_rsqrt" => some .rsqrt
  | _ => none

end Sys2Proof
end

