-- ==== Sys2Proof/Config.lean ====
section
/-! DEFINITION. What an implementation of CORE fixes (R10, R11): the size of the register window and the default
values of the open parameters BASE and RSQRT_TABLE.

The parameters themselves are fields of `State` that no step writes, so every statement over all states holds for
every value of them; what stands here is only what `State.reset` puts there. LATENCY has no constant: the model has
no clock (R76), and a completion falls wherever the schedule puts it. -/

namespace Sys2Proof.Config

/-- The register window is 32 bytes, eight word slots (R42). -/
def windowBytes : Nat := 0x20

/-- DESIGN CHOICE (assumption 1): the number of the 32-byte block `State.reset` places the window in. BASE is OPEN
(R11, R43), no rule depends on it, and no statement may rest on this value. -/
def baseIndex : Nat := 0

/-- The default RSQRT_TABLE, the 32 literals of R107: entry k is the integer nearest to 65536/sqrt(2^k). -/
def rsqrtTable : Table :=
  #v[65536, 46341, 32768, 23170, 16384, 11585, 8192, 5793,
     4096, 2896, 2048, 1448, 1024, 724, 512, 362,
     256, 181, 128, 91, 64, 45, 32, 23,
     16, 11, 8, 6, 4, 3, 2, 1]

end Sys2Proof.Config
end

