-- ==== Sys2Proof/Machine/State.lean ====
section
/-! DEFINITION. The state of the machine as plain data: all that R19 gives CORE, the reset input's level (R132), the
window's place (R43), the host of R66, and the model's own trace and schedule. -/

namespace Sys2Proof.Machine

/-- The machine. BUSY is not stored: it is the view `pend.isSome` (R28). CMD is not stored either (R24). -/
structure State where
  /-- operand register A (R21) -/
  a : Word
  /-- operand register B (R22) -/
  b : Word
  /-- operand register C (R23) -/
  c : Word
  /-- result register RES_LO (R25) -/
  resLo : Word
  /-- result register RES_HI (R26) -/
  resHi : Word
  /-- STATUS.DZ, bit 1 (R29) -/
  dz : Bool
  /-- STATUS.INF, bit 2 (R30) -/
  inf : Bool
  /-- STATUS.ILL, bit 3, sticky (R31) -/
  ill : Bool
  /-- STATUS.COLL, bit 4, sticky (R32) -/
  coll : Bool
  /-- PEND, the in-flight latch (R34) -/
  pend : Option Pending
  /-- TABLE, the read-only table RSQRT reads: the parameter RSQRT_TABLE (R11, R35, R119) -/
  table : Table
  /-- the parameter BASE divided by 32 (R11, R43): `State.base` is a multiple of 0x20 by construction -/
  baseIndex : Nat
  /-- the level of the reset input (R132) -/
  resetAsserted : Bool
  /-- the host that runs a script (R66) -/
  host : ScriptHost
  /-- the accesses to the window so far, newest first, with the values the reads returned (R68) -/
  trace : List BusEvent
  /-- who moves next (R51, R80): the model's own schedule, first input first -/
  inputs : List Input
  deriving DecidableEq, Repr

/-- Why the machine stops. -/
inductive Fault where
  /-- HostBadAccess of R80: an access that touches the window and is not an aligned 32-bit one (R45). Raised by
  `busAccess`. Safe: the spec says the model faults. -/
  | badAccess
  /-- The host's script reads a variable that nothing has written (R66). Raised by `runStmt`. Safe: the spec says a
  model rejects the program. -/
  | unwrittenVariable
  /-- The host's statement counter is past the last statement and the host has not executed HALT: R66 gives no
  statement to run. Raised by `hostTurn`. Safe. -/
  | noStatement
  deriving DecidableEq, Repr

/-- Why the machine gives no meaning. -/
inductive Refusal where
  /-- An instruction with no meaning yet. Raised by no arm of `exec`. Safe. -/
  | notModelled (mnemonic : String)
  /-- The host fetches an instruction from the window; R55 says a model refuses such a fetch. Raised by `busAccess`.
  Safe. -/
  | instructionFetch
  /-- `exec` is asked to complete a command that PEND does not hold: the execution unit has no such step (R74).
  Raised by `completeWith`; no step of the machine reaches it. Safe. -/
  | notInFlight
  deriving DecidableEq, Repr

/-- The three outcomes of a step, at this machine's types. -/
abbrev Outcome := Host.Outcome State Fault Refusal

/-- A host with no program: it has halted and has written no variable. DESIGN CHOICE (assumption 3). -/
def ScriptHost.idle : ScriptHost :=
  { program := [], hpc := 0, vars := Vector.replicate 8 none, halted := true }

/-- The machine right after reset (R132), for a window at `32 * baseIndex` and a given RSQRT_TABLE: R11 lets a model
take both as arguments. -/
def State.resetWith (baseIndex : Nat) (table : Table) : State :=
  { a := 0, b := 0, c := 0, resLo := 0, resHi := 0
    dz := false, inf := false, ill := false, coll := false, pend := none
    table := table, baseIndex := baseIndex, resetAsserted := false
    host := ScriptHost.idle, trace := [], inputs := [] }

/-- The machine right after reset (R132), at the default parameters. -/
def State.reset : State := State.resetWith Config.baseIndex Config.rsqrtTable

end Sys2Proof.Machine
end

