-- ==== Sys2Proof/Machine/Flags.lean ====
section
/-! DEFINITION. The STATUS fields: BUSY as a view (R28), the word a read of STATUS returns (R27, R33), the
write-1-to-clear of ILL and COLL (R33), and the flags a completion computes (R29, R30, R75). -/

namespace Sys2Proof.Machine

/-- F.BUSY: PEND holds a command (R28). -/
def State.busy (s : State) : Bool := s.pend.isSome

/-- The word a read of STATUS returns: COLL, ILL, INF, DZ, BUSY in bits 4 down to 0, and 0 in bits 31:5 (R27, R33). -/
def State.statusWord (s : State) : Word :=
  0#27 ++ BitVec.ofBool s.coll ++ BitVec.ofBool s.ill ++ BitVec.ofBool s.inf ++ BitVec.ofBool s.dz
    ++ BitVec.ofBool s.busy

/-- A bus write of `w` to STATUS: bit 3 clears ILL, bit 4 clears COLL, every other bit is ignored (R33). -/
def State.clearFlags (w : Word) (s : State) : State :=
  { s with ill := s.ill && !w.getLsbD 3, coll := s.coll && !w.getLsbD 4 }

/-- The result of a command that sets neither DZ nor INF (R75). -/
def plainResult (lo hi : Word) : Result := { lo := lo, hi := hi, dz := false, inf := false }

/-- The result of UDIV or UMOD: DZ tells whether the latched divisor was 0 (R29, R75); RES_HI is 0 (R64). -/
def divideResult (divisor lo : Word) : Result := { lo := lo, hi := 0, dz := divisor == 0, inf := false }

/-- The result of RSQRT: INF tells whether the latched operand was 0 (R30, R75); RES_HI is 0 (R64). -/
def rsqrtFlags (x lo : Word) : Result := { lo := lo, hi := 0, dz := false, inf := x == 0 }

end Sys2Proof.Machine
end

