-- ==== Sys2Proof/Machine/Ops.lean ====
section
/-! DEFINITION. The named operations over the registers: the window's address decoding (R42-R46), register reads and
writes (R20-R33), command acceptance (R71-R73), completion (R74), and reset (R132). CORE has no memory (R41) and takes
no exception (R120, R125, R126), so there is no operation over memory and none that enters or leaves a trap. -/

namespace Sys2Proof.Machine

/-- BASE, the byte address of the window: a multiple of 0x20 (R43). -/
def State.base (s : State) : Nat := Config.windowBytes * s.baseIndex

/-- The byte offset of a register from BASE (R20, R44). -/
def Reg.off : Reg → Nat
  | .a => 0x00
  | .b => 0x04
  | .c => 0x08
  | .cmd => 0x0C
  | .resLo => 0x10
  | .resHi => 0x14
  | .status => 0x18
  | .rsvd => 0x1C

/-- The register of a slot `off[4:2]` (R44). -/
def Reg.ofSlot (slot : Fin 8) : Reg :=
  match slot with
  | 0 => .a
  | 1 => .b
  | 2 => .c
  | 3 => .cmd
  | 4 => .resLo
  | 5 => .resHi
  | 6 => .status
  | 7 => .rsvd

/-- How many bytes an access of a width covers. -/
def Width.bytes : Width → Nat
  | .bits8 => 1
  | .bits16 => 2
  | .bits32 => 4
  | .bits64 => 8

/-- What an access reaches. -/
inductive Target where
  /-- no byte of the window: not addressed to CORE (R42) -/
  | outside
  /-- some byte of the window, but not as an aligned 32-bit access (R45) -/
  | bad
  /-- a register, by an aligned 32-bit access (R44) -/
  | reg (r : Reg)
  deriving DecidableEq, Repr

/-- Address decoding (R42, R44, R45). An access that reaches into the window from below it counts as bad
(DESIGN CHOICE, assumption 5). -/
def State.target (s : State) (width : Width) (addr : Nat) : Target :=
  if addr + width.bytes ≤ s.base ∨ s.base + Config.windowBytes ≤ addr then .outside
  else if width = .bits32 ∧ s.base ≤ addr ∧ (addr - s.base) % 4 = 0 then
    .reg (Reg.ofSlot (Fin.ofNat 8 ((addr - s.base) / 4)))
  else .bad

/-- The value of a register as the host reads it (R20-R27, R46). A read changes nothing (R50). -/
def State.readReg (r : Reg) (s : State) : Word :=
  match r with
  | .a => s.a
  | .b => s.b
  | .c => s.c
  | .cmd => 0
  | .resLo => s.resLo
  | .resHi => s.resHi
  | .status => s.statusWord
  | .rsvd => 0

/-- Acceptance: PEND takes the command and the operands A, B and C hold now (R62, R72). -/
def State.accept (i : Instr) (s : State) : State :=
  { s with pend := some { op := i, a := s.a, b := s.b, c := s.c } }

/-- A command word arrives while a command is in flight: it is dropped and COLL is set (R72). -/
def State.collide (s : State) : State := { s with coll := true }

/-- A reserved command word arrives while CORE is idle: ILL is set (R73). -/
def State.reject (s : State) : State := { s with ill := true }

/-- A command request, a bus write of `w` to CMD (R71-R73). The BUSY test comes before decoding (R72, R124). -/
def State.commandRequest (w : Word) (s : State) : State :=
  if s.busy then s.collide
  else match decode w with
    | .command i => s.accept i
    | .reserved _ => s.reject

/-- What a bus write of `v` does to CORE (R21-R26, R33, R46, R50, R71). -/
def State.writeReg (r : Reg) (v : Word) (s : State) : State :=
  match r with
  | .a => { s with a := v }
  | .b => { s with b := v }
  | .c => { s with c := v }
  | .cmd => s.commandRequest v
  | .resLo => s
  | .resHi => s
  | .status => s.clearFlags v
  | .rsvd => s

/-- An access is recorded in the trace (R68). -/
def State.record (e : BusEvent) (s : State) : State := { s with trace := e :: s.trace }

/-- The word a host read of a register returns: 0 while reset is asserted (R132). -/
def State.busRead (r : Reg) (s : State) : Word := if s.resetAsserted then 0 else s.readReg r

/-- A host read (R80): CORE does not change. -/
def State.hostRead (r : Reg) (s : State) : State := s.record (.read r (s.busRead r))

/-- A host write (R80); it has no effect on CORE while reset is asserted (R132). -/
def State.hostWrite (r : Reg) (v : Word) (s : State) : State :=
  (if s.resetAsserted then s else s.writeReg r v).record (.write r v)

/-- One bus access by the host (R42, R44, R45, R55, R80). -/
def busAccess (acc : Access) (s : State) : Outcome :=
  match s.target acc.width acc.addr, acc.kind with
  | .outside, _ => .next s
  | _, .fetch => .refused .instructionFetch
  | .bad, _ => .fault .badAccess
  | .reg r, .read => .next (s.hostRead r)
  | .reg r, .write v => .next (s.hostWrite r v)

/-- A completion writes RES_LO, RES_HI, DZ and INF at once and empties PEND (R74). -/
def State.retire (r : Result) (s : State) : State :=
  { s with resLo := r.lo, resHi := r.hi, dz := r.dz, inf := r.inf, pend := none }

/-- The completion of command `i` whose `exec(i, a, b, c)` is `f a b c`, on the operands PEND latched (R74, R78). -/
def completeWith (i : Instr) (f : Word → Word → Word → Result) (s : State) : Outcome :=
  match s.pend with
  | some p => if p.op = i then .next (s.retire (f p.a p.b p.c)) else .refused .notInFlight
  | none => .refused .notInFlight

/-- Every register and flag goes to 0 and PEND to none; TABLE is unchanged (R132). -/
def State.clearRegs (s : State) : State :=
  { s with
    a := 0, b := 0, c := 0, resLo := 0, resHi := 0
    dz := false, inf := false, ill := false, coll := false, pend := none }

/-- The reset input is asserted (R132): an in-flight command is abandoned. -/
def State.assertReset (s : State) : State := { s.clearRegs with resetAsserted := true }

/-- The reset input is released (R132): CORE is idle at its reset values. -/
def State.releaseReset (s : State) : State := { s.clearRegs with resetAsserted := false }

end Sys2Proof.Machine
end

