-- ==== Sys2Proof/Machine/Clz.lean ====
section
/-! DEFINITION. CLZ, the leading-zero counter (R83-R86). -/

namespace Sys2Proof.Machine

/-- The number of leading zeros: 32 for 0, else 31 less the position of the most significant set bit (R83). -/
def clz (x : Word) : Nat := if x = 0 then 32 else 31 - Nat.log2 x.toNat

/-- `exec(CLZ, a, b, c)` (R83): B and C are ignored. -/
def clzResult (a _b _c : Word) : Result := plainResult (trunc32 (clz a)) 0

/-- CLZ completes (R74, R83). -/
def execClz (s : State) : Outcome := completeWith .clz clzResult s

/-- One window of R84's search: if the top `k` bits of the working value are 0, count `k` and shift left by `k`. -/
def clzWindow (k : Nat) (nv : Nat × Word) : Nat × Word :=
  if nv.2 >>> (32 - k) = 0 then (nv.1 + k, nv.2 <<< k) else nv

/-- The source's algorithm, binary-search halving (R84): windows of 16, 8, 4 and 2 bits and a single-bit test. -/
def clzBinarySearch (x : Word) : Nat :=
  if x = 0 then 32
  else (clzWindow 1 (clzWindow 2 (clzWindow 4 (clzWindow 8 (clzWindow 16 (0, x)))))).1

end Sys2Proof.Machine
end

