-- ==== Sys2Proof/Machine/Divide.lean ====
section
/-! DEFINITION. UDIV and UMOD, the divider (R92-R97). A zero divisor gives 0 (R96). -/

namespace Sys2Proof.Machine

/-- The quotient, 0 for a zero divisor (R92). -/
def quotient (a b : Word) : Word := if b = 0 then 0 else trunc32 (a.toNat / b.toNat)

/-- The remainder, 0 for a zero divisor (R93). -/
def remainder (a b : Word) : Word := if b = 0 then 0 else trunc32 (a.toNat % b.toNat)

/-- `exec(UDIV, a, b, c)` (R92): C is ignored. -/
def udivResult (a b _c : Word) : Result := divideResult b (quotient a b)

/-- `exec(UMOD, a, b, c)` (R93): C is ignored. -/
def umodResult (a b _c : Word) : Result := divideResult b (remainder a b)

/-- UDIV completes (R74, R92). -/
def execUdiv (s : State) : Outcome := completeWith .udiv udivResult s

/-- UMOD completes (R74, R93). -/
def execUmod (s : State) : Outcome := completeWith .umod umodResult s

/-- One bit of R94's loop: shift the running remainder left, bring in bit `i` of the dividend, and subtract the
divisor and set the quotient bit where it fits. The pair is (quotient, remainder), both 32-bit registers. -/
def divideBit (n d : Word) (i : Nat) (qr : Word × Word) : Word × Word :=
  let r := qr.2 <<< 1 ||| (BitVec.ofBool (n.getLsbD i)).setWidth 32
  if d ≤ r then (qr.1 ||| 1#32 <<< i, r - d) else (qr.1, r)

/-- R94's loop after `k` of its 32 steps, from bit 31 downwards: (quotient, remainder). -/
def divideSteps (n d : Word) : Nat → Word × Word
  | 0 => (0, 0)
  | k + 1 => divideBit n d (31 - k) (divideSteps n d k)

/-- The source's algorithm, restoring binary long division (R94), for a nonzero divisor. -/
def divideRestoring (n d : Word) : Word × Word := divideSteps n d 32

end Sys2Proof.Machine
end

