-- ==== Sys2Proof/Machine/Multiply.lean ====
section
/-! DEFINITION. MULW and MUL, the widening multiplier (R87-R91). -/

namespace Sys2Proof.Machine

/-- The exact 64-bit product of two unsigned words (R87). -/
def mulWide (a b : Word) : Nat := a.toNat * b.toNat

/-- `exec(MULW, a, b, c)` (R87): C is ignored. -/
def mulwResult (a b _c : Word) : Result := plainResult (lowHalf (mulWide a b)) (highHalf (mulWide a b))

/-- `exec(MUL, a, b, c)` (R88): the upper half of the product is discarded. -/
def mulResult (a b _c : Word) : Result := plainResult (lowHalf (mulWide a b)) 0

/-- MULW completes (R74, R87). -/
def execMulw (s : State) : Outcome := completeWith .mulw mulwResult s

/-- MUL completes (R74, R88). -/
def execMul (s : State) : Outcome := completeWith .mul mulResult s

/-- The accumulator of R89's loop after the bits below `n` of `b`, in 64 bits. -/
def mulShiftAddUpTo (a b : Word) : Nat → BitVec 64
  | 0 => 0
  | n + 1 =>
    let acc := mulShiftAddUpTo a b n
    if b.getLsbD n then acc + a.setWidth 64 <<< n else acc

/-- The source's algorithm, shift-and-add over the 32 bits of `b` (R89). -/
def mulShiftAdd (a b : Word) : BitVec 64 := mulShiftAddUpTo a b 32

end Sys2Proof.Machine
end

