-- ==== Sys2Proof/Machine/Shift64.lean ====
section
/-! DEFINITION. SLL64 and SRL64, the 64-bit logical shifter (R98-R103). The amount is all 32 bits of C, unmasked. -/

namespace Sys2Proof.Machine

/-- A 64-bit value shifted left; 64 places or more give 0 (R98). -/
def shiftLeft64 (v amount : Nat) : Nat := if 64 ≤ amount then 0 else trunc64 (v * 2 ^ amount)

/-- A 64-bit value shifted right; 64 places or more give 0 (R99). -/
def shiftRight64 (v amount : Nat) : Nat := if 64 ≤ amount then 0 else v / 2 ^ amount

/-- The result whose 64-bit value is `v` (R64). -/
def wideResult (v : Nat) : Result := plainResult (lowHalf v) (highHalf v)

/-- `exec(SLL64, a, b, c)` (R98): the value is the pair B, A. -/
def sll64Result (a b c : Word) : Result := wideResult (shiftLeft64 (pairValue b a) c.toNat)

/-- `exec(SRL64, a, b, c)` (R99). -/
def srl64Result (a b c : Word) : Result := wideResult (shiftRight64 (pairValue b a) c.toNat)

/-- SLL64 completes (R74, R98). -/
def execSll64 (s : State) : Outcome := completeWith .sll64 sll64Result s

/-- SRL64 completes (R74, R99). -/
def execSrl64 (s : State) : Outcome := completeWith .srl64 srl64Result s

/-- The source's left shift by halves (R100); the pair is (low, high). -/
def sllHalves (lo hi s : Word) : Word × Word :=
  if 64 ≤ s.toNat then (0, 0)
  else if s.toNat = 0 then (lo, hi)
  else if s.toNat < 32 then (lo <<< s.toNat, hi <<< s.toNat ||| lo >>> (32 - s.toNat))
  else (0, lo <<< (s.toNat - 32))

/-- The source's right shift by halves (R100); the pair is (low, high). -/
def srlHalves (lo hi s : Word) : Word × Word :=
  if 64 ≤ s.toNat then (0, 0)
  else if s.toNat = 0 then (lo, hi)
  else if s.toNat < 32 then (lo >>> s.toNat ||| hi <<< (32 - s.toNat), hi >>> s.toNat)
  else (hi >>> (s.toNat - 32), 0)

end Sys2Proof.Machine
end

