-- ==== Sys2Proof/Machine/Rsqrt.lean ====
section
/-! DEFINITION. RSQRT, the Q16 inverse-square-root engine, stage by stage (R104-R119), for any TABLE (R119). -/

namespace Sys2Proof.Machine

/-- Stage 1: the exponent `31 - CLZ(x)` (R106). -/
def rsqrtExp (x : Word) : Fin 32 := ⟨31 - clz x, by omega⟩

/-- Stage 3a: the fraction `(x - 2^e)/2^e` in Q16, rounded down, through a 64-bit intermediate (R109). -/
def rsqrtFrac (x : Word) (e : Nat) : Word :=
  trunc32 (shiftRight64 (shiftLeft64 (x.toNat - 2 ^ e) 16) e)

/-- Stage 3b: the difference to the next table entry, 0 at the end of the table (R110). -/
def rsqrtDelta (table : Table) (e : Fin 32) : Word :=
  if h : e.val = 31 then 0 else table[e.val] - table[e.val + 1]

/-- Stages 2 and 3 at exponent `e`: the coarse estimate, interpolated where x is no power of two (R108-R110). -/
def rsqrtEstimateAt (table : Table) (x : Word) (e : Fin 32) : Word :=
  if 2 ^ e.val < x.toNat then
    table[e] - trunc32 (shiftRight64 (mulWide (rsqrtDelta table e) (rsqrtFrac x e.val)) 16)
  else table[e]

/-- Stages 1 to 3: the estimate before refinement (R106, R108-R110). -/
def rsqrtEstimate (table : Table) (x : Word) : Word := rsqrtEstimateAt table x (rsqrtExp x)

/-- `y2` of R111: y squared, in Q32. -/
def newtonY2 (y : Word) : Word := trunc32 (mulWide y y)

/-- `xy2` of R111: x times y squared, in Q16. -/
def newtonXy2 (x y : Word) : Word := trunc32 (shiftRight64 (mulWide x (newtonY2 y)) 16)

/-- `f` of R111: 3 less x times y squared, in Q16, modulo 2^32 (R113). -/
def newtonF (x y : Word) : Word := 196608 - newtonXy2 x y

/-- Stage 4: one Newton-Raphson iteration (R111). -/
def newton (x y : Word) : Word := trunc32 (shiftRight64 (mulWide y (newtonF x y)) 17)

/-- The value RSQRT returns: the special cases before every stage (R105), else two iterations (R112). -/
def rsqrt (table : Table) (x : Word) : Word :=
  if x = 0 then 0xFFFFFFFF
  else if x = 1 then 65536
  else newton x (newton x (rsqrtEstimate table x))

/-- `exec(RSQRT, a, b, c)` (R104): B and C are ignored. -/
def rsqrtResult (table : Table) (a _b _c : Word) : Result := rsqrtFlags a (rsqrt table a)

/-- RSQRT completes (R74, R104). Only RSQRT reads TABLE (R35). -/
def execRsqrt (s : State) : Outcome := completeWith .rsqrt (rsqrtResult s.table) s

end Sys2Proof.Machine
end

