-- ==== Sys2Proof/Machine/Dispatch.lean ====
section
/-! DEFINITION. `exec`: the completion of each command (R74, R75), one arm per command. -/

namespace Sys2Proof.Machine

/-- The completion step of command `i`: R74 with `exec(i, a, b, c)` on the operands PEND latched. -/
def exec (i : Instr) (s : State) : Host.Outcome State Fault Refusal :=
  match i with
  | .clz => Sys2Proof.Machine.execClz s
  | .mulw => Sys2Proof.Machine.execMulw s
  | .mul => Sys2Proof.Machine.execMul s
  | .udiv => Sys2Proof.Machine.execUdiv s
  | .umod => Sys2Proof.Machine.execUmod s
  | .sll64 => Sys2Proof.Machine.execSll64 s
  | .srl64 => Sys2Proof.Machine.execSrl64 s
  | .rsqrt => Sys2Proof.Machine.execRsqrt s

end Sys2Proof.Machine
end

