-- ==== Sys2Proof/Machine/Script.lean ====
section
/-! DEFINITION. The host-script language (R66-R68): how a host runs a statement, and how a program as written, with
labels and pseudo-instructions, is expanded. -/

namespace Sys2Proof.Machine

/-- The value of a `WR` source; `none` for a variable nothing has written (R66). -/
def ScriptHost.value (h : ScriptHost) : Src → Option Word
  | .imm v => some v
  | .var t => h.vars[t]
  | .mnemonic m => some (encode m)

/-- The statement counter advances by one (R66). -/
def State.advance (s : State) : State := { s with host := { s.host with hpc := s.host.hpc + 1 } }

/-- A taken branch sets the statement counter (R66). -/
def State.jump (l : Nat) (s : State) : State := { s with host := { s.host with hpc := l } }

/-- A host variable takes a value (R66). -/
def State.setVar (t : Var) (v : Word) (s : State) : State :=
  { s with host := { s.host with vars := s.host.vars.set t (some v) } }

/-- The host executes HALT and stops (R66, R82). Its statement counter stays at the HALT statement (DESIGN CHOICE,
assumption 24). -/
def State.halt (s : State) : State := { s with host := { s.host with halted := true } }

/-- A branch on one bit of a variable, taken when the bit is `want` (R66). -/
def branchOn (want : Bool) (t : Var) (n : Fin 32) (l : Nat) (s : State) : Outcome :=
  match s.host.vars[t] with
  | none => .fault .unwrittenVariable
  | some v => .next (if v.getLsbD n = want then s.jump l else s.advance)

/-- One statement (R66). `WR` and `RD` are aligned 32-bit accesses at BASE + off(reg) (R14). -/
def runStmt (st : Stmt Nat) (s : State) : Outcome :=
  match st with
  | .wr r src =>
    match s.host.value src with
    | none => .fault .unwrittenVariable
    | some v => .next (s.hostWrite r v).advance
  | .rd t r => .next ((s.hostRead r).setVar t (s.busRead r)).advance
  | .bs t n l => branchOn true t n l s
  | .bc t n l => branchOn false t n l s
  | .halt => .next s.halt

/-- The host takes its turn: its next statement, or nothing once it has halted (R66, R82). -/
def hostTurn (s : State) : Outcome :=
  if s.host.halted then .next s
  else match s.host.program[s.host.hpc]? with
    | some st => runStmt st s
    | none => .fault .noStatement

/-- A program is given to the host: it starts at its first statement with no variable written (R66). -/
def State.load (p : Program) (s : State) : State :=
  { s with host := { program := p, hpc := 0, vars := Vector.replicate 8 none, halted := false } }

/-- The statements a line stands for when its first one has number `at_` (R67). The only labels an expansion makes
are those of `WAIT`, which branches to its own first statement; `t7` is variable 7. -/
def Line.expand (at_ : Nat) : Line → List (Stmt (Label ⊕ Nat))
  | .stmt (.wr r src) => [.wr r src]
  | .stmt (.rd t r) => [.rd t r]
  | .stmt (.bs t n l) => [.bs t n (.inl l)]
  | .stmt (.bc t n l) => [.bc t n (.inl l)]
  | .stmt .halt => [.halt]
  | .wait => [.rd 7 .status, .bs 7 0 (.inr at_)]
  | .issue m => [.wr .cmd (.mnemonic m)]
  | .do1 m x => [.wr .a x, .wr .cmd (.mnemonic m), .rd 7 .status, .bs 7 0 (.inr (at_ + 2))]
  | .do2 m x y =>
    [.wr .a x, .wr .b y, .wr .cmd (.mnemonic m), .rd 7 .status, .bs 7 0 (.inr (at_ + 3))]
  | .do3 m lo hi amount =>
    [.wr .a lo, .wr .b hi, .wr .c amount, .wr .cmd (.mnemonic m), .rd 7 .status, .bs 7 0 (.inr (at_ + 4))]
  | .clrErr => [.wr .status (.imm 0x00000018)]

/-- Every line expanded from statement number `at_` on, with the number each label stands for. -/
def expandLines (at_ : Nat) : List LabelledLine → List (Stmt (Label ⊕ Nat)) × List (Label × Nat)
  | [] => ([], [])
  | l :: rest =>
    let sts := l.line.expand at_
    let tail := expandLines (at_ + sts.length) rest
    (sts ++ tail.1, (match l.label with | some x => [(x, at_)] | none => []) ++ tail.2)

/-- A branch target becomes a statement number; `none` for a label that stands nowhere. -/
def resolveTarget (labels : List (Label × Nat)) : Label ⊕ Nat → Option Nat
  | .inl l => labels.lookup l
  | .inr n => some n

/-- A statement with its branch target resolved. -/
def resolveStmt (labels : List (Label × Nat)) : Stmt (Label ⊕ Nat) → Option (Stmt Nat)
  | .wr r src => some (.wr r src)
  | .rd t r => some (.rd t r)
  | .bs t n l => (resolveTarget labels l).map (.bs t n ·)
  | .bc t n l => (resolveTarget labels l).map (.bc t n ·)
  | .halt => some .halt

/-- Each label stands before one line only. -/
def labelsDistinct (labels : List (Label × Nat)) : Bool := (labels.map Prod.fst).Nodup

/-- The program a text stands for (R66, R67); `none` where a line is ill-formed, a label is defined twice, or a
branch names a label that stands nowhere. -/
def assemble (text : List LabelledLine) : Option Program :=
  let out := expandLines 0 text
  if text.all (fun l => l.line.wf) && labelsDistinct out.2 then out.1.mapM (resolveStmt out.2) else none

/-- The access triple of a trace entry: whether it writes, the offset, and the word (R68). -/
def BusEvent.triple : BusEvent → Bool × Nat × Word
  | .write r v => (true, r.off, v)
  | .read r v => (false, r.off, v)

end Sys2Proof.Machine
end

