-- ==== Sys2Proof/Machine/Turn.lean ====
section
/-! DEFINITION. The step relation of R80: what each agent's turn does, and who moves when the schedule says nothing. -/

namespace Sys2Proof.Machine

/-- The execution unit's turn: the completion of the command in flight, or nothing while there is none (R74). -/
def completeTurn (s : State) : Outcome :=
  match s.pend with
  | some p => exec p.op s
  | none => .next s

/-- One input (R18, R80). A bus input is an access whatever the script host does, after its HALT as well (DESIGN
CHOICE, assumption 23). -/
def runInput (i : Input) (s : State) : Outcome :=
  match i with
  | .bus acc => busAccess acc s
  | .host => hostTurn s
  | .complete => completeTurn s
  | .resetAssert => .next s.assertReset
  | .resetRelease => .next s.releaseReset

/-- Who moves when no input is left: a command in flight completes, else the host's script goes on, else CORE stays
idle (R77, R82, R131). DESIGN CHOICE of an order among those R51 allows (assumption 2). -/
def defaultTurn (s : State) : Outcome := if s.busy then completeTurn s else hostTurn s

/-- One turn of the machine: the next input of the schedule, taken off it, or the default. -/
def turn (s : State) : Outcome :=
  match s.inputs with
  | i :: rest => runInput i { s with inputs := rest }
  | [] => defaultTurn s

/-- A command word is fetched: CORE is out of reset and idle, the word is written to CMD (R71-R73), and the execution
unit's turn comes next. -/
def State.fetchWord (w : Word) (s : State) : State :=
  let t := ({ s with resetAsserted := false, pend := none } : State).commandRequest w
  { t with inputs := .complete :: s.inputs }

end Sys2Proof.Machine
end

