-- ==== Sys2Proof/Machine/Step.lean ====
section
/-! DEFINITION. `step`, one step of the machine (R80), and where it finds its next command. -/

namespace Sys2Proof.Machine

/-- One step of the machine (R80). -/
def step (s : State) : Host.Outcome State Fault Refusal := turn s

/-- The state whose very next step completes the command whose word has the bits `w`: the word has just been written
to CMD of an idle CORE out of reset. CORE has no program counter and fetches nothing (R36): a command is accepted
from the bus into PEND, and PEND is where the execution unit finds it (assumption 4). -/
def State.withFetchWord (s : State) (nbits w : Nat) : State :=
  match tableWord nbits w with
  | some v => s.fetchWord v
  | none => s

end Sys2Proof.Machine
end

