-- ==== Sys2Proof/Safety.lean ====
section
/-! DEFINITION. The terms claims use: when a run has ended (R82), what an error-free state is (I7, R137), and the
invariants of the machine. -/

namespace Sys2Proof.Machine

/-- `k` steps of the machine, stopping at the first fault or refusal. -/
def runSteps : Nat → State → Outcome
  | 0, s => .next s
  | k + 1, s =>
    match step s with
    | .next t => runSteps k t
    | .fault f => .fault f
    | .refused r => .refused r

/-- The run has ended: the host has executed HALT and no command is in flight (R82). A fault or a refusal leaves no
state, so no faulted state is final. The definition does not look at the schedule: a bus access that waits in it after
HALT still takes effect (DESIGN CHOICE, assumption 23). -/
def State.final (s : State) : Bool := s.host.halted && s.pend.isNone

/-- No command word was dropped or rejected since the flags were last cleared (R122, R137). -/
def State.errorFree (s : State) : Bool := !s.ill && !s.coll

/-- CORE's registers, flags and latch are at their reset values (R132). -/
def State.AtReset (s : State) : Prop :=
  s.a = 0 ∧ s.b = 0 ∧ s.c = 0 ∧ s.resLo = 0 ∧ s.resHi = 0 ∧
  s.dz = false ∧ s.inf = false ∧ s.ill = false ∧ s.coll = false ∧ s.pend = none

/-- The flags agree with the result registers: DZ stands beside 0 (R29, R121), INF beside the sentinel (R30, R121),
never both (R124). -/
def State.FlagsAgree (s : State) : Prop :=
  (s.dz = true → s.resLo = 0 ∧ s.resHi = 0) ∧
  (s.inf = true → s.resLo = 0xFFFFFFFF ∧ s.resHi = 0) ∧
  ¬(s.dz = true ∧ s.inf = true)

/-- While reset is asserted, CORE is at its reset values (R132). -/
def State.HeldInReset (s : State) : Prop := s.resetAsserted = true → s.AtReset

/-- The invariant of the machine. -/
def State.Inv (s : State) : Prop := s.FlagsAgree ∧ s.HeldInReset

/-- The next input asserts or releases the reset input. -/
def State.Resetting (s : State) : Prop :=
  s.inputs.head? = some .resetAssert ∨ s.inputs.head? = some .resetRelease

/-- The next input is the host's `BusWrite(off, v)`, a 32-bit access at BASE + off (R14). -/
def State.NextIsWrite (s : State) (off : Nat) (v : Word) (rest : List Input) : Prop :=
  s.inputs = .bus { kind := .write v, width := .bits32, addr := s.base + off } :: rest

/-- The next input is the host's `BusRead(off)` (R14). -/
def State.NextIsRead (s : State) (off : Nat) (rest : List Input) : Prop :=
  s.inputs = .bus { kind := .read, width := .bits32, addr := s.base + off } :: rest

/-- A table whose entries do not increase from entry 1 on, the ones RSQRT reads (R108, R119). -/
def TableNonIncreasing (table : Table) : Prop :=
  ∀ i j : Fin 32, 1 ≤ i.val → i ≤ j → table[j] ≤ table[i]

end Sys2Proof.Machine
end

