-- ==== Sys2Proof/Certificates/Slice0/Obligations.lean ====
section
/-! DEFINITION. The statements for the provers, one `def Obligations.<Name> : Prop` each. The exact next states are
written as record updates, so each of them also says that every field it does not name is unchanged. -/

open Sys2Proof Sys2Proof.Machine

/-! ### Encoding -/

/-- 30_encoding.md section 2: the words of the eight commands, read and written, and words that are reserved. -/
def Obligations.TableWordsDecodeAndEncode : Prop :=
  decode 0x00000001 = .command .clz ∧ encode .clz = 0x00000001 ∧
  decode 0x00000002 = .command .mulw ∧ encode .mulw = 0x00000002 ∧
  decode 0x00000003 = .command .mul ∧ encode .mul = 0x00000003 ∧
  decode 0x00000004 = .command .udiv ∧ encode .udiv = 0x00000004 ∧
  decode 0x00000005 = .command .umod ∧ encode .umod = 0x00000005 ∧
  decode 0x00000006 = .command .sll64 ∧ encode .sll64 = 0x00000006 ∧
  decode 0x00000007 = .command .srl64 ∧ encode .srl64 = 0x00000007 ∧
  decode 0x00000008 = .command .rsqrt ∧ encode .rsqrt = 0x00000008 ∧
  decode 0x00000000 = .reserved .opZero ∧ decode 0x00000009 = .reserved .opUnassigned ∧
  decode 0x00000012 = .reserved .rsvNonzero ∧ decode 0xFFFFFFFF = .reserved .rsvNonzero

/-- R59: a word is a command exactly when RSV = 0 and OP is one of the eight codes, and then it is the command of
that code; every other word is reserved. -/
def Obligations.WordIsLegalExactlyWhenRsvZeroAndOpAssigned : Prop :=
  ∀ w : Word,
    (w.extractLsb' 4 28 = 0 ∧ 1 ≤ (w.extractLsb' 0 4).toNat ∧ (w.extractLsb' 0 4).toNat ≤ 8 →
      ∃ i, decode w = .command i ∧ opcode i = w.extractLsb' 0 4) ∧
    (¬(w.extractLsb' 4 28 = 0 ∧ 1 ≤ (w.extractLsb' 0 4).toNat ∧ (w.extractLsb' 0 4).toNat ≤ 8) →
      ∃ why, decode w = .reserved why)

/-- Decode and encode agree in both directions, on words and on the opcode table's numbering of their bits. -/
def Obligations.DecodeAndEncodeAgree : Prop :=
  (∀ i : Instr, decode (encode i) = .command i) ∧
  (∀ (w : Word) (i : Instr), decode w = .command i → w = encode i) ∧
  (∀ (n : Nat) (i : Instr), decodeTableWord 32 n = some i ↔ n = (encode i).toNat)

/-! ### The eight commands -/

/-- R83: CLZ completes with the number of leading zeros of the latched A, from the position of its most significant
set bit. -/
def Obligations.ClzCompletesWithLeadingZeroCount : Prop :=
  decode 0x00000001 = .command .clz ∧
  ∀ (s : State) (a b c : Word), s.pend = some { op := .clz, a := a, b := b, c := c } →
    (a = 0 → exec .clz s =
      .next { s with resLo := 32, resHi := 0, dz := false, inf := false, pend := none }) ∧
    (∀ p : Nat, p < 32 → a.getLsbD p = true → (∀ i, p < i → i < 32 → a.getLsbD i = false) →
      exec .clz s =
        .next { s with resLo := BitVec.ofNat 32 (31 - p), resHi := 0, dz := false, inf := false, pend := none })

/-- R87: MULW completes with the exact 64-bit product of the latched A and B. -/
def Obligations.MulwCompletesWithExactProduct : Prop :=
  decode 0x00000002 = .command .mulw ∧
  ∀ (s : State) (a b c : Word), s.pend = some { op := .mulw, a := a, b := b, c := c } →
    ∃ lo hi : Word, hi.toNat * 2 ^ 32 + lo.toNat = a.toNat * b.toNat ∧
      exec .mulw s = .next { s with resLo := lo, resHi := hi, dz := false, inf := false, pend := none }

/-- R88: MUL completes with the product modulo 2^32, and the low 32 bits of the product of any two integers that
agree with the operands modulo 2^32 are the same. -/
def Obligations.MulCompletesWithTruncatedProduct : Prop :=
  decode 0x00000003 = .command .mul ∧
  ∀ (s : State) (a b c : Word), s.pend = some { op := .mul, a := a, b := b, c := c } →
    ∃ lo : Word, lo.toNat = a.toNat * b.toNat % 2 ^ 32 ∧
      (∀ k m : Int, (lo.toNat : Int) = (a.toNat + k * 2 ^ 32) * (b.toNat + m * 2 ^ 32) % 2 ^ 32) ∧
      exec .mul s = .next { s with resLo := lo, resHi := 0, dz := false, inf := false, pend := none }

/-- R92: UDIV completes with the quotient, or with 0 and DZ for a zero divisor. -/
def Obligations.UdivCompletesWithQuotient : Prop :=
  decode 0x00000004 = .command .udiv ∧
  ∀ (s : State) (a b c : Word), s.pend = some { op := .udiv, a := a, b := b, c := c } →
    (b = 0 → exec .udiv s =
      .next { s with resLo := 0, resHi := 0, dz := true, inf := false, pend := none }) ∧
    (b ≠ 0 → ∃ q : Word, q.toNat = a.toNat / b.toNat ∧ exec .udiv s =
      .next { s with resLo := q, resHi := 0, dz := false, inf := false, pend := none })

/-- R93: UMOD completes with the remainder, or with 0 and DZ for a zero divisor. -/
def Obligations.UmodCompletesWithRemainder : Prop :=
  decode 0x00000005 = .command .umod ∧
  ∀ (s : State) (a b c : Word), s.pend = some { op := .umod, a := a, b := b, c := c } →
    (b = 0 → exec .umod s =
      .next { s with resLo := 0, resHi := 0, dz := true, inf := false, pend := none }) ∧
    (b ≠ 0 → ∃ r : Word, r.toNat = a.toNat % b.toNat ∧ exec .umod s =
      .next { s with resLo := r, resHi := 0, dz := false, inf := false, pend := none })

/-- R98: SLL64 completes with the pair B, A shifted left by all of C; 64 places or more give 0. -/
def Obligations.Sll64CompletesWithLeftShift : Prop :=
  decode 0x00000006 = .command .sll64 ∧
  ∀ (s : State) (a b c : Word), s.pend = some { op := .sll64, a := a, b := b, c := c } →
    ∃ lo hi : Word,
      (64 ≤ c.toNat → hi = 0 ∧ lo = 0) ∧
      (c.toNat < 64 →
        hi.toNat * 2 ^ 32 + lo.toNat = (b.toNat * 2 ^ 32 + a.toNat) * 2 ^ c.toNat % 2 ^ 64) ∧
      exec .sll64 s = .next { s with resLo := lo, resHi := hi, dz := false, inf := false, pend := none }

/-- R99: SRL64 completes with the pair B, A shifted right by all of C; 64 places or more give 0. -/
def Obligations.Srl64CompletesWithRightShift : Prop :=
  decode 0x00000007 = .command .srl64 ∧
  ∀ (s : State) (a b c : Word), s.pend = some { op := .srl64, a := a, b := b, c := c } →
    ∃ lo hi : Word,
      (64 ≤ c.toNat → hi = 0 ∧ lo = 0) ∧
      (c.toNat < 64 →
        hi.toNat * 2 ^ 32 + lo.toNat = (b.toNat * 2 ^ 32 + a.toNat) / 2 ^ c.toNat) ∧
      exec .srl64 s = .next { s with resLo := lo, resHi := hi, dz := false, inf := false, pend := none }

/-- R104, R105, R106, R109 to R112 in integers: RSQRT completes, for any TABLE, with the special cases or with the
interpolated estimate refined by two Newton iterations, every truncation written out. The differences of table
entries and of the estimate are taken modulo 2^32, which matters only for a TABLE that increases (assumption 8). -/
def Obligations.RsqrtCompletesWithTwoNewtonIterations : Prop :=
  decode 0x00000008 = .command .rsqrt ∧
  ∀ (s : State) (a b c : Word), s.pend = some { op := .rsqrt, a := a, b := b, c := c } →
    (a = 0 → exec .rsqrt s =
      .next { s with resLo := 0xFFFFFFFF, resHi := 0, dz := false, inf := true, pend := none }) ∧
    (a = 1 → exec .rsqrt s =
      .next { s with resLo := 65536, resHi := 0, dz := false, inf := false, pend := none }) ∧
    (∀ (e : Fin 32) (delta y : Nat), 2 ≤ a.toNat → 2 ^ e.val ≤ a.toNat → a.toNat < 2 ^ (e.val + 1) →
      (e.val = 31 → delta = 0) →
      (∀ f : Fin 32, f.val = e.val + 1 →
        delta = (s.table[e].toNat + (2 ^ 32 - s.table[f].toNat)) % 2 ^ 32) →
      (a.toNat = 2 ^ e.val → y = s.table[e].toNat) →
      (2 ^ e.val < a.toNat →
        y = (s.table[e].toNat +
          (2 ^ 32 - delta * ((a.toNat - 2 ^ e.val) * 2 ^ 16 / 2 ^ e.val) / 2 ^ 16 % 2 ^ 32)) % 2 ^ 32) →
      let refine := fun v : Nat =>
        v * ((196608 + (2 ^ 32 - a.toNat * (v * v % 2 ^ 32) / 2 ^ 16 % 2 ^ 32)) % 2 ^ 32) / 2 ^ 17 % 2 ^ 32
      exec .rsqrt s =
        .next { s with
          resLo := BitVec.ofNat 32 (refine (refine y)), resHi := 0, dz := false, inf := false, pend := none })

/-- R75: `exec` is total on every command and all operands, its results depend on PEND and TABLE alone, and it gives
the flags the rule names. -/
def Obligations.ExecIsTotalFunctionOfLatchedCommand : Prop :=
  ∀ (s s' : State) (p : Pending), s.pend = some p → s'.pend = some p → s.table = s'.table →
    ∃ (lo hi : Word) (dz inf : Bool),
      exec p.op s = .next { s with resLo := lo, resHi := hi, dz := dz, inf := inf, pend := none } ∧
      exec p.op s' = .next { s' with resLo := lo, resHi := hi, dz := dz, inf := inf, pend := none } ∧
      (dz = true ↔ (p.op = .udiv ∨ p.op = .umod) ∧ p.b = 0) ∧
      (inf = true ↔ p.op = .rsqrt ∧ p.a = 0)

/-- 40_command_cycle.md section 2, 10_state.md section 8: whenever a command completes, it was the one in flight, PEND
is empty after it, and nothing but RES_LO, RES_HI, DZ, INF and PEND has changed; RES_HI is 0 but for MULW, SLL64 and
SRL64. -/
def Obligations.CompletionChangesOnlyResultsAndLatch : Prop :=
  ∀ (i : Instr) (s t : State), exec i s = .next t →
    (∃ a b c, s.pend = some { op := i, a := a, b := b, c := c }) ∧ t.pend = none ∧ t.busy = false ∧
    t.a = s.a ∧ t.b = s.b ∧ t.c = s.c ∧ t.ill = s.ill ∧ t.coll = s.coll ∧ t.table = s.table ∧
    t.baseIndex = s.baseIndex ∧ t.resetAsserted = s.resetAsserted ∧ t.host = s.host ∧ t.trace = s.trace ∧
    t.inputs = s.inputs ∧ (i ≠ .mulw → i ≠ .sll64 → i ≠ .srl64 → t.resHi = 0)

/-! ### Laws of the results -/

/-- R85: the laws of CLZ, on what its completion leaves in RES_LO. -/
def Obligations.ClzCountLaws : Prop :=
  ∀ s : State, ∃ count : Word → Nat,
    (∀ x b c : Word, ∃ t,
      exec .clz { s with pend := some { op := .clz, a := x, b := b, c := c } } = .next t ∧
      t.resLo.toNat = count x) ∧
    count 0 = 32 ∧ (∀ k : Nat, k < 32 → count (1#32 <<< k) = 31 - k) ∧
    (∀ x : Word, x ≠ 0 → 2 ^ (31 - count x) ≤ x.toNat ∧ x.toNat < 2 ^ (32 - count x) ∧
      count x = count (x ||| BitVec.ofNat 32 (2 ^ (31 - count x) - 1)))

/-- R90: MULW is exact and commutative, MUL is its low half, and multiplying by 2^k splits A over the halves. -/
def Obligations.MultiplyLaws : Prop :=
  ∀ (s : State) (a b c : Word), ∃ t u v : State,
    exec .mulw { s with pend := some { op := .mulw, a := a, b := b, c := c } } = .next t ∧
    exec .mulw { s with pend := some { op := .mulw, a := b, b := a, c := c } } = .next u ∧
    exec .mul { s with pend := some { op := .mul, a := a, b := b, c := c } } = .next v ∧
    t.resHi.toNat * 2 ^ 32 + t.resLo.toNat = a.toNat * b.toNat ∧
    u.resLo = t.resLo ∧ u.resHi = t.resHi ∧ v.resLo = t.resLo ∧
    (∀ k : Nat, 1 ≤ k → k ≤ 31 → b = BitVec.ofNat 32 (2 ^ k) → t.resHi = a >>> (32 - k) ∧ t.resLo = a <<< k)

/-- R95: quotient and remainder make up the dividend, and the remainder is below the divisor; for a zero divisor both
are 0, so the identity fails for every nonzero dividend. -/
def Obligations.DivisionIdentity : Prop :=
  ∀ (s : State) (a b c : Word), ∃ t u : State,
    exec .udiv { s with pend := some { op := .udiv, a := a, b := b, c := c } } = .next t ∧
    exec .umod { s with pend := some { op := .umod, a := a, b := b, c := c } } = .next u ∧
    (b ≠ 0 → t.resLo.toNat * b.toNat + u.resLo.toNat = a.toNat ∧ u.resLo.toNat < b.toNat) ∧
    (b = 0 → t.resLo = 0 ∧ u.resLo = 0 ∧
      (a ≠ 0 → t.resLo.toNat * b.toNat + u.resLo.toNat ≠ a.toNat))

/-- R101: shifts by 0 and by 64, agreement with a 64-bit shift in between, and the composition of two shifts, the
result of the first passed back as the operand of the second; for SLL64 and for SRL64. -/
def Obligations.ShiftLaws : Prop :=
  ∀ s : State, ∃ sll srl : Word → Word → Word → Word × Word,
    (∀ a b c : Word, ∃ t,
      exec .sll64 { s with pend := some { op := .sll64, a := a, b := b, c := c } } = .next t ∧
      (t.resLo, t.resHi) = sll a b c) ∧
    (∀ a b c : Word, ∃ t,
      exec .srl64 { s with pend := some { op := .srl64, a := a, b := b, c := c } } = .next t ∧
      (t.resLo, t.resHi) = srl a b c) ∧
    (∀ a b : Word, sll a b 0 = (a, b) ∧ srl a b 0 = (a, b) ∧ sll a b 64 = (0, 0) ∧ srl a b 64 = (0, 0)) ∧
    (∀ a b c : Word, 1 ≤ c.toNat → c.toNat ≤ 63 →
      (sll a b c).2 ++ (sll a b c).1 = (b ++ a) <<< c.toNat ∧
      (srl a b c).2 ++ (srl a b c).1 = (b ++ a) >>> c.toNat) ∧
    (∀ a b c d : Word, c.toNat + d.toNat < 2 ^ 32 →
      sll (sll a b c).1 (sll a b c).2 d = sll a b (c + d) ∧
      srl (srl a b c).1 (srl a b c).2 d = srl a b (c + d))

/-- 44_shift64.md (R102): a 32-bit logical shift of x by fewer than 32 places is SLL64 or SRL64 with A = x and B = 0,
and the left shift leaves the bits it shifts out of bit 31 in RES_HI. -/
def Obligations.WordShiftIsWideShiftWithZeroHighHalf : Prop :=
  ∀ (s : State) (x c : Word), c.toNat < 32 → ∃ t u : State,
    exec .sll64 { s with pend := some { op := .sll64, a := x, b := 0, c := c } } = .next t ∧
    exec .srl64 { s with pend := some { op := .srl64, a := x, b := 0, c := c } } = .next u ∧
    t.resLo = x <<< c.toNat ∧ t.resHi.toNat = x.toNat / 2 ^ (32 - c.toNat) ∧
    u.resLo = x >>> c.toNat ∧ u.resHi = 0

/-! ### The source's algorithms -/

/-- R84: binary-search halving gives the count of R83 for every word. -/
def Obligations.ClzBinarySearchAgrees : Prop := ∀ x : Word, clzBinarySearch x = clz x

/-- R89: shift-and-add gives the exact product, and no addition on the way overflows 64 bits: after the bits below n
the accumulator is exactly A times those bits of B. -/
def Obligations.MulShiftAddAgrees : Prop :=
  ∀ a b : Word, (mulShiftAdd a b).toNat = a.toNat * b.toNat ∧
    ∀ n : Nat, n ≤ 32 → (mulShiftAddUpTo a b n).toNat = a.toNat * (b.toNat % 2 ^ n)

/-- R94: restoring long division gives quotient and remainder for every nonzero divisor; UDIV takes the first and
UMOD the second; and after the step for bit i the remainder is at most floor(n / 2^i) < 2^(32-i), so that the next
step's shift drops no bit; the first step starts from 0. -/
def Obligations.DivideRestoringAgrees : Prop :=
  ∀ n d : Word, d ≠ 0 →
    (divideRestoring n d).1.toNat = n.toNat / d.toNat ∧ (divideRestoring n d).2.toNat = n.toNat % d.toNat ∧
    divideRestoring n d = (quotient n d, remainder n d) ∧ divideSteps n d 0 = (0, 0) ∧
    (∀ i : Nat, i ≤ 31 → (divideSteps n d (32 - i)).2.toNat ≤ n.toNat / 2 ^ i ∧
      n.toNat / 2 ^ i < 2 ^ (32 - i) ∧
      (1 ≤ i → 2 * (divideSteps n d (32 - i)).2.toNat + (n.getLsbD (i - 1)).toNat < 2 ^ (33 - i)))

/-- R100: the shifts by halves give the results of R98 and R99 for every input. -/
def Obligations.ShiftHalvesAgree : Prop :=
  ∀ lo hi s : Word,
    sllHalves lo hi s = ((sll64Result lo hi s).lo, (sll64Result lo hi s).hi) ∧
    srlHalves lo hi s = ((srl64Result lo hi s).lo, (srl64Result lo hi s).hi)

/-! ### RSQRT -/

/-- R105: 0 gives the sentinel and 1 gives 65536, whatever TABLE is; every other input takes the general path; and on
the general path from 65536 the input 1 would give 98304 and then 135168. -/
def Obligations.RsqrtSpecialCases : Prop :=
  (∀ table : Table, rsqrt table 0 = 0xFFFFFFFF ∧ rsqrt table 1 = 65536) ∧
  (∀ (table : Table) (x : Word), 2 ≤ x.toNat →
    rsqrt table x = newton x (newton x (rsqrtEstimate table x))) ∧
  newtonY2 65536 = 0 ∧ newton 1 65536 = 98304 ∧ newton 1 98304 = 135168

/-- R107: entry k of the default TABLE is the integer T nearest to `65536/sqrt(2^k)`, that is,
`(2T-1)^2 * 2^k <= 2^34 <= (2T+1)^2 * 2^k`; the table is strictly decreasing; and it is the TABLE after reset. -/
def Obligations.TableHoldsNearestIntegers : Prop :=
  State.reset.table = Config.rsqrtTable ∧
  ∀ k : Fin 32,
    (2 * Config.rsqrtTable[k].toNat - 1) ^ 2 * 2 ^ k.val ≤ 2 ^ 34 ∧
    2 ^ 34 ≤ (2 * Config.rsqrtTable[k].toNat + 1) ^ 2 * 2 ^ k.val ∧
    ∀ m : Fin 32, k < m → Config.rsqrtTable[m] < Config.rsqrtTable[k]

/-- 45_rsqrt.md section 2 (R109): stage 3 runs only where x is no power of two; the interpolation fraction is
`(x - 2^e)/2^e` in Q16 rounded down, no bit is lost on the way, it is at most 65535, and for a power of two it is 0 and
interpolating would change nothing. The estimate is written for every TABLE with its differences modulo 2^32, which for
a TABLE that increases is the model's reading (assumption 8) and not the rule's. -/
def Obligations.InterpolationFractionIsExact : Prop :=
  ∀ (x : Word) (e : Fin 32), 2 ^ e.val ≤ x.toNat → x.toNat < 2 ^ (e.val + 1) →
    (x.toNat - 2 ^ e.val) * 2 ^ 16 < 2 ^ 47 ∧
    (rsqrtFrac x e.val).toNat = (x.toNat - 2 ^ e.val) * 2 ^ 16 / 2 ^ e.val ∧
    (rsqrtFrac x e.val).toNat ≤ 65535 ∧
    (∀ table : Table, rsqrtEstimate table x = if 2 ^ e.val < x.toNat then
      table[e] - trunc32 (shiftRight64 (mulWide (rsqrtDelta table e) (rsqrtFrac x e.val)) 16) else table[e]) ∧
    (x.toNat = 2 ^ e.val → rsqrtFrac x e.val = 0 ∧ ∀ y delta : Word,
      y - trunc32 (shiftRight64 (mulWide delta (rsqrtFrac x e.val)) 16) = y)

/-- 45_rsqrt.md section 2 (R110), with the default TABLE: the interpolated estimate lies above the next entry and at
most at its own, its difference and product stay in the widths the rule gives, and at e = 31 it is 1. -/
def Obligations.EstimateLiesBetweenTableEntries : Prop :=
  ∀ (x : Word) (e : Fin 32), 2 ≤ x.toNat → 2 ^ e.val ≤ x.toNat → x.toNat < 2 ^ (e.val + 1) →
    rsqrtExp x = e ∧
    (rsqrtDelta Config.rsqrtTable e).toNat ≤ 19195 ∧
    (rsqrtDelta Config.rsqrtTable e).toNat * (rsqrtFrac x e.val).toNat < 2 ^ 31 ∧
    rsqrtEstimate Config.rsqrtTable x ≤ Config.rsqrtTable[e] ∧
    (∀ f : Fin 32, f.val = e.val + 1 → Config.rsqrtTable[f] < rsqrtEstimate Config.rsqrtTable x) ∧
    (e.val = 31 → rsqrtEstimate Config.rsqrtTable x = 1)

/-- 45_rsqrt.md section 3 (R115): the estimate before refinement does not increase with x, for any TABLE that does not
increase. -/
def Obligations.EstimateIsNonIncreasing : Prop :=
  ∀ table : Table, TableNonIncreasing table → ∀ x y : Word, 2 ≤ x.toNat → x ≤ y →
    rsqrtEstimate table y ≤ rsqrtEstimate table x

/-- 45_rsqrt.md section 3 (R113), with the default TABLE: in both iterations no truncation drops a bit and the
subtraction does not borrow. -/
def Obligations.NewtonTruncationsDropNothing : Prop :=
  ∀ x y : Word, 2 ≤ x.toNat →
    (y = rsqrtEstimate Config.rsqrtTable x ∨ y = newton x (rsqrtEstimate Config.rsqrtTable x)) →
    y.toNat * y.toNat < 2 ^ 32 ∧
    x.toNat * (y.toNat * y.toNat) / 2 ^ 16 < 196608 ∧
    (newtonXy2 x y).toNat = x.toNat * (y.toNat * y.toNat) / 2 ^ 16 ∧
    (newtonF x y).toNat = 196608 - x.toNat * (y.toNat * y.toNat) / 2 ^ 16 ∧
    (newton x y).toNat = y.toNat * (196608 - x.toNat * (y.toNat * y.toNat) / 2 ^ 16) / 2 ^ 17

/-- R114, with the default TABLE: the range of RSQRT's result, where its ends are reached, and that INF, the sentinel
and a zero operand go together. -/
def Obligations.RsqrtResultRange : Prop :=
  ∀ (s : State) (a b c : Word), s.table = Config.rsqrtTable →
    s.pend = some { op := .rsqrt, a := a, b := b, c := c } →
    ∃ t, exec .rsqrt s = .next t ∧
      (2 ≤ a.toNat → 1 ≤ t.resLo.toNat ∧ t.resLo.toNat ≤ 46341) ∧
      (a = 2 → t.resLo = 46341) ∧ (0x80000000 ≤ a.toNat → t.resLo = 1) ∧
      (t.resLo = 65536 ↔ a = 1) ∧ (t.resLo = 0xFFFFFFFF ↔ a = 0) ∧
      (t.inf = true ↔ t.resLo = 0xFFFFFFFF)

/-- 45_rsqrt.md section 3 (R115), 90_conflicts.md C2: with the default TABLE the refined result increases at nine
inputs, so it is not monotone. -/
def Obligations.RefinedResultIsNotMonotone : Prop :=
  [(65536, 255, 256), (262144, 127, 128), (1048576, 63, 64), (4194304, 31, 32), (16777216, 15, 16),
    (67108864, 7, 8), (201326592, 3, 4), (268435456, 3, 4), (1073741824, 1, 2)].all
    (fun (x, before, after) =>
      rsqrt Config.rsqrtTable (BitVec.ofNat 32 (x - 1)) = BitVec.ofNat 32 before ∧
      rsqrt Config.rsqrtTable (BitVec.ofNat 32 x) = BitVec.ofNat 32 after) = true

/-! ### Command requests -/

/-- R71, R72, R73: a write to CMD out of reset. While a command is in flight the request is dropped with COLL set,
whatever the word, and that command completes as it would have without it; while CORE is idle a legal word latches its
command with A, B and C, and a reserved word sets ILL. Nothing else changes. -/
def Obligations.CommandRequestAcceptsDropsOrRejects : Prop :=
  ∀ (s : State) (w : Word) (rest : List Input), s.resetAsserted = false → s.NextIsWrite 0x0C w rest →
    (∀ p, s.pend = some p → ∃ (t : State) (lo hi : Word) (dz inf : Bool), step s = .next t ∧
      t = { s with coll := true, inputs := rest, trace := .write .cmd w :: s.trace } ∧
      exec p.op s = .next { s with resLo := lo, resHi := hi, dz := dz, inf := inf, pend := none } ∧
      exec p.op t = .next { t with resLo := lo, resHi := hi, dz := dz, inf := inf, pend := none }) ∧
    (∀ i, s.pend = none → decode w = .command i → step s =
      .next { s with
        pend := some { op := i, a := s.a, b := s.b, c := s.c }, inputs := rest,
        trace := .write .cmd w :: s.trace }) ∧
    (∀ why, s.pend = none → decode w = .reserved why → step s =
      .next { s with ill := true, inputs := rest, trace := .write .cmd w :: s.trace })

/-- R78: a write to A, B or C while a command is in flight changes that register only, and the command completes with
the results it would have had without the write. -/
def Obligations.InFlightCommandUsesLatchedOperands : Prop :=
  ∀ (s : State) (p : Pending) (v : Word) (rest : List Input), s.pend = some p → s.resetAsserted = false →
    ∃ (lo hi : Word) (dz inf : Bool),
      exec p.op s = .next { s with resLo := lo, resHi := hi, dz := dz, inf := inf, pend := none } ∧
      ∀ r : Reg, (r = .a ∨ r = .b ∨ r = .c) → s.NextIsWrite r.off v rest →
        ∃ t, step s = .next t ∧
          t = { s with
            a := if r = .a then v else s.a, b := if r = .b then v else s.b, c := if r = .c then v else s.c,
            inputs := rest, trace := .write r v :: s.trace } ∧
          exec p.op t = .next { t with resLo := lo, resHi := hi, dz := dz, inf := inf, pend := none }

/-- 70_reset_and_hazards.md section 3 (R137): if ILL and COLL are 0 before a write to CMD out of reset and 0 after it,
the write was accepted. -/
def Obligations.CleanCommandWriteWasAccepted : Prop :=
  ∀ (s t : State) (w : Word) (rest : List Input), s.resetAsserted = false → s.NextIsWrite 0x0C w rest →
    s.errorFree = true → step s = .next t → t.errorFree = true →
    ∃ i, decode w = .command i ∧ s.busy = false ∧
      t.pend = some { op := i, a := s.a, b := s.b, c := s.c }

/-! ### Registers and the bus -/

/-- R44: which register each aligned address of the window selects; BASE is a multiple of 0x20 (R43). -/
def Obligations.WindowAddressSelectsRegister : Prop :=
  ∀ s : State, s.base % 0x20 = 0 ∧
    s.target .bits32 (s.base + 0x00) = .reg .a ∧ s.target .bits32 (s.base + 0x04) = .reg .b ∧
    s.target .bits32 (s.base + 0x08) = .reg .c ∧ s.target .bits32 (s.base + 0x0C) = .reg .cmd ∧
    s.target .bits32 (s.base + 0x10) = .reg .resLo ∧ s.target .bits32 (s.base + 0x14) = .reg .resHi ∧
    s.target .bits32 (s.base + 0x18) = .reg .status ∧ s.target .bits32 (s.base + 0x1C) = .reg .rsvd

/-- 10_state.md sections 1 to 5 (R20, R24, R27, R50): a read of any slot out of reset returns its register (CMD and
the reserved slot read 0) and changes nothing. The value returned stands in the trace. -/
def Obligations.ReadReturnsRegisterAndChangesNothing : Prop :=
  ∀ (s : State) (r : Reg) (rest : List Input), s.resetAsserted = false → s.NextIsRead r.off rest →
    ∃ v : Word, step s = .next { s with inputs := rest, trace := .read r v :: s.trace } ∧
      (r = .a → v = s.a) ∧ (r = .b → v = s.b) ∧ (r = .c → v = s.c) ∧ (r = .cmd → v = 0) ∧
      (r = .resLo → v = s.resLo) ∧ (r = .resHi → v = s.resHi) ∧ (r = .rsvd → v = 0) ∧
      (r = .status → v.toNat = s.pend.isSome.toNat + 2 * s.dz.toNat + 4 * s.inf.toNat + 8 * s.ill.toNat
        + 16 * s.coll.toNat)

/-- 10_state.md section 2 (R21, R22, R23): a write to A, B or C out of reset stores the word and nothing else, busy or
not. -/
def Obligations.OperandWriteStoresTheWord : Prop :=
  ∀ (s : State) (v : Word) (rest : List Input), s.resetAsserted = false →
    (s.NextIsWrite 0x00 v rest → step s =
      .next { s with a := v, inputs := rest, trace := .write .a v :: s.trace }) ∧
    (s.NextIsWrite 0x04 v rest → step s =
      .next { s with b := v, inputs := rest, trace := .write .b v :: s.trace }) ∧
    (s.NextIsWrite 0x08 v rest → step s =
      .next { s with c := v, inputs := rest, trace := .write .c v :: s.trace })

/-- R28, R33: a write to STATUS out of reset clears ILL where bit 3 is 1 and COLL where bit 4 is 1 and changes
nothing else; a read returns COLL, ILL, INF, DZ and BUSY in bits 4 to 0 and 0 above, and changes nothing; BUSY is 1
exactly when PEND holds a command. -/
def Obligations.StatusClearsByOnesAndReadsItsFields : Prop :=
  ∀ (s : State) (w : Word) (rest : List Input), s.resetAsserted = false →
    (s.busy = true ↔ ∃ p, s.pend = some p) ∧
    (s.NextIsWrite 0x18 w rest → step s =
      .next { s with
        ill := if w.getLsbD 3 then false else s.ill, coll := if w.getLsbD 4 then false else s.coll,
        inputs := rest, trace := .write .status w :: s.trace }) ∧
    (s.NextIsRead 0x18 rest → ∃ v : Word,
      step s = .next { s with inputs := rest, trace := .read .status v :: s.trace } ∧
      v.getLsbD 0 = s.busy ∧ v.getLsbD 1 = s.dz ∧ v.getLsbD 2 = s.inf ∧ v.getLsbD 3 = s.ill ∧
      v.getLsbD 4 = s.coll ∧ ∀ i, 5 ≤ i → v.getLsbD i = false)

/-- R46, and 10_state.md section 4 for the result registers: a write to the reserved slot, to RES_LO or to RES_HI is
ignored, and the reserved slot reads 0, in reset or out of it. -/
def Obligations.ReservedAndResultSlotsIgnoreWrites : Prop :=
  ∀ (s : State) (v : Word) (rest : List Input),
    (s.NextIsWrite 0x1C v rest → step s =
      .next { s with inputs := rest, trace := .write .rsvd v :: s.trace }) ∧
    (s.NextIsRead 0x1C rest → step s =
      .next { s with inputs := rest, trace := .read .rsvd 0 :: s.trace }) ∧
    (s.NextIsWrite 0x10 v rest → step s =
      .next { s with inputs := rest, trace := .write .resLo v :: s.trace }) ∧
    (s.NextIsWrite 0x14 v rest → step s =
      .next { s with inputs := rest, trace := .write .resHi v :: s.trace })

/-- 20_memory.md section 2 (R45, R80): an access at an address of the window that is not 32 bits wide or not aligned
faults, with no value and no effect; an aligned 32-bit access to the window always completes. That it faults while reset
is asserted as well (assumption 7), and that 64 bits are among the widths that fault (assumption 11), are the model's
readings. -/
def Obligations.OnlyAlignedWordAccessesHaveMeaning : Prop :=
  ∀ (s : State) (acc : Access) (rest : List Input), s.inputs = .bus acc :: rest → acc.kind ≠ .fetch →
    s.base ≤ acc.addr → acc.addr < s.base + 0x20 →
    ((acc.width ≠ .bits32 ∨ (acc.addr - s.base) % 4 ≠ 0) → step s = .fault .badAccess) ∧
    ((acc.width = .bits32 ∧ (acc.addr - s.base) % 4 = 0) → ∃ t, step s = .next t)

/-- 20_memory.md section 1 (R42): CORE answers a 32-bit access to any of the eight word slots of its window, and an
access that covers no byte of the window has no effect on it. That such an access is answered, with only the schedule
changed, is the model's reading (assumption 6): row I5 of 93_implementation_defined.md says that it is no step of
CORE. -/
def Obligations.AccessOutsideWindowHasNoEffect : Prop :=
  ∀ (s : State) (acc : Access) (rest : List Input), s.inputs = .bus acc :: rest →
    (acc.addr + acc.width.bytes ≤ s.base ∨ s.base + 0x20 ≤ acc.addr → step s =
      .next { s with inputs := rest }) ∧
    (∀ slot : Nat, slot < 8 → acc.width = .bits32 → acc.addr = s.base + 4 * slot → acc.kind ≠ .fetch →
      ∃ (t : State) (e : BusEvent), step s = .next t ∧ t.trace = e :: s.trace)

/-- 20_memory.md section 4 (R55): an instruction fetch from the window is refused. That a fetch which is narrow,
misaligned or straddles the window's start is refused too and does not fault (assumption 22), and that reset makes no
difference (assumption 7), are the model's readings. The second clause is the model's choice (assumption 5): an access
that begins below the window and reaches into it faults. -/
def Obligations.FetchIsRefusedAndStraddleFaults : Prop :=
  ∀ (s : State) (acc : Access) (rest : List Input), s.inputs = .bus acc :: rest →
    s.base < acc.addr + acc.width.bytes → acc.addr < s.base + 0x20 →
    (acc.kind = .fetch → step s = .refused .instructionFetch) ∧
    (acc.kind ≠ .fetch → acc.addr < s.base → step s = .fault .badAccess)

/-! ### Reset -/

/-- R20, R40, R134: right after reset every slot of the window reads 0 and CORE is idle with no error. -/
def Obligations.ResetLeavesEveryRegisterZero : Prop :=
  State.reset.a = 0 ∧ State.reset.b = 0 ∧ State.reset.c = 0 ∧ State.reset.resLo = 0 ∧ State.reset.resHi = 0 ∧
  State.reset.statusWord = 0 ∧ State.reset.busy = false ∧ State.reset.pend = none ∧
  State.reset.errorFree = true ∧ ∀ r : Reg, State.reset.busRead r = 0

/-- 70_reset_and_hazards.md section 1 (R132): asserting reset, and releasing it, put every register and flag at 0 and
PEND at none and leave TABLE alone, whatever was in flight; while reset is asserted a host write has no effect and a
host read returns 0. That asserting and releasing are two inputs, that a release clears CORE even where reset was not
asserted, and that the host goes on untouched are the model's choice (assumption 19), and so is that accesses during
reset stand in the trace (assumption 10). -/
def Obligations.ResetClearsAndHoldsCore : Prop :=
  ∀ (s : State) (rest : List Input),
    (s.inputs = .resetAssert :: rest → step s =
      .next { s with
        a := 0, b := 0, c := 0, resLo := 0, resHi := 0, dz := false, inf := false, ill := false, coll := false,
        pend := none, resetAsserted := true, inputs := rest }) ∧
    (s.inputs = .resetRelease :: rest → step s =
      .next { s with
        a := 0, b := 0, c := 0, resLo := 0, resHi := 0, dz := false, inf := false, ill := false, coll := false,
        pend := none, resetAsserted := false, inputs := rest }) ∧
    (∀ (r : Reg) (v : Word), s.resetAsserted = true → s.NextIsWrite r.off v rest → step s =
      .next { s with inputs := rest, trace := .write r v :: s.trace }) ∧
    (∀ r : Reg, s.resetAsserted = true → s.NextIsRead r.off rest → step s =
      .next { s with inputs := rest, trace := .read r 0 :: s.trace })

/-! ### Steps and runs -/

/-- 40_command_cycle.md section 2 (R74): the execution unit's step is `exec` of the command in flight; with none in
flight it has no step; and after a legal command word is fetched, the very next step is `exec` of the command it
decodes to, on the operands A, B and C held. Three clauses rest on the model's own conventions: that an exhausted
schedule completes first (assumption 2), that a completion turn with PEND empty changes only the schedule
(assumption 20), and that `withFetchWord` stands for the host's CMD write, since CORE fetches nothing
(assumption 4). -/
def Obligations.StepRunsTheLatchedCommand : Prop :=
  (∀ (s : State) (p : Pending) (rest : List Input), s.pend = some p → s.inputs = .complete :: rest →
    step s = exec p.op { s with inputs := rest }) ∧
  (∀ (s : State) (p : Pending), s.pend = some p → s.inputs = [] → step s = exec p.op s) ∧
  (∀ (s : State) (rest : List Input), s.pend = none → s.inputs = .complete :: rest →
    step s = .next { s with inputs := rest }) ∧
  (∀ (s : State) (w : Word) (i : Instr), decode w = .command i →
    step (s.withFetchWord 32 w.toNat) =
      exec i { s with resetAsserted := false, pend := some { op := i, a := s.a, b := s.b, c := s.c } })

/-- 40_command_cycle.md sections 1 and 2: a command word written to CMD of an idle CORE, then a completion, is `exec`
of its command on the operands of the write; a run of two steps shows acceptance and completion as distinct steps. -/
def Obligations.AcceptThenCompleteIsExec : Prop :=
  ∀ (s : State) (w : Word) (i : Instr) (rest : List Input), s.resetAsserted = false → s.pend = none →
    decode w = .command i → s.NextIsWrite 0x0C w (.complete :: rest) →
    runSteps 2 s =
      exec i { s with
        pend := some { op := i, a := s.a, b := s.b, c := s.c }, inputs := rest,
        trace := .write .cmd w :: s.trace }

/-- The invariant holds right after reset. -/
def Obligations.InvariantHoldsAtReset : Prop := State.reset.Inv

/-- Every step keeps the invariant: DZ stands beside a result of 0, INF beside the sentinel, never both, and CORE
stays at its reset values while reset is asserted. -/
def Obligations.EveryStepKeepsInvariant : Prop :=
  ∀ s t : State, s.Inv → step s = .next t → t.Inv

/-- 10_state.md section 8 (R39): the writers of each piece of state. A reset is either of the model's two reset inputs
(assumption 19). A step that is no reset changes A, B or C only by a host write to it; RES_LO, RES_HI, DZ and INF only
by a completion; it sets BUSY only by accepting a command and clears it only by completing it; it sets ILL only on a
reserved word written while idle and COLL only on a word written while busy; it clears them only by ones written to
STATUS; and no step writes TABLE. The trace shows which access a step made. -/
def Obligations.WritersOfEachPieceOfState : Prop :=
  ∀ s t : State, step s = .next t →
    t.table = s.table ∧ (s.Resetting → t.AtReset) ∧
    (¬s.Resetting →
      (t.a ≠ s.a → t.trace = .write .a t.a :: s.trace) ∧
      (t.b ≠ s.b → t.trace = .write .b t.b :: s.trace) ∧
      (t.c ≠ s.c → t.trace = .write .c t.c :: s.trace) ∧
      ((t.resLo ≠ s.resLo ∨ t.resHi ≠ s.resHi ∨ t.dz ≠ s.dz ∨ t.inf ≠ s.inf) →
        s.busy = true ∧ t.busy = false) ∧
      (s.busy = true → t.busy = true → t.pend = s.pend) ∧
      (s.busy = false → t.busy = true → ∃ w i, t.trace = .write .cmd w :: s.trace ∧ decode w = .command i ∧
        t.pend = some { op := i, a := s.a, b := s.b, c := s.c }) ∧
      (s.busy = true → t.busy = false → t.trace = s.trace ∧
        ∃ p, s.pend = some p ∧ exec p.op { s with inputs := s.inputs.tail } = .next t) ∧
      (s.ill = false → t.ill = true → s.busy = false ∧
        ∃ w why, t.trace = .write .cmd w :: s.trace ∧ decode w = .reserved why) ∧
      (s.coll = false → t.coll = true → s.busy = true ∧ ∃ w, t.trace = .write .cmd w :: s.trace) ∧
      (s.ill = true → t.ill = false → ∃ w : Word, t.trace = .write .status w :: s.trace ∧ w.getLsbD 3 = true) ∧
      (s.coll = true → t.coll = false →
        ∃ w : Word, t.trace = .write .status w :: s.trace ∧ w.getLsbD 4 = true))

/-- 40_command_cycle.md sections 1 to 3 (R72, R78, R79): over any number of steps with no reset among the inputs, a
command in flight stays in flight with its own operands and the results stay those of the previous completion, until
one step completes it as latched. -/
def Obligations.InFlightCommandStaysUntilItCompletes : Prop :=
  ∀ (k : Nat) (s t : State) (p : Pending), s.pend = some p →
    Input.resetAssert ∉ s.inputs → Input.resetRelease ∉ s.inputs → runSteps k s = .next t →
    (t.pend = some p ∧ t.resLo = s.resLo ∧ t.resHi = s.resHi ∧ t.dz = s.dz ∧ t.inf = s.inf) ∨
    (∃ j, j < k ∧ ∃ u v : State, runSteps j s = .next u ∧ u.pend = some p ∧
      u.resLo = s.resLo ∧ u.resHi = s.resHi ∧ u.dz = s.dz ∧ u.inf = s.inf ∧
      exec p.op { u with inputs := u.inputs.tail } = .next v ∧ runSteps (j + 1) s = .next v)

/-- 40_command_cycle.md section 2 (R77), under the model's schedule (assumption 2): a command in flight has left PEND,
or the machine has stopped on an access or a script that the spec forbids, within one step more than the inputs that
wait. -/
def Obligations.InFlightCommandLeavesWithinSchedule : Prop :=
  ∀ (s : State) (p : Pending), s.pend = some p →
    ∃ k, k ≤ s.inputs.length + 1 ∧
      ((∃ t, runSteps k s = .next t ∧ t.pend = none) ∨
       (∃ f, runSteps k s = .fault f) ∨
       runSteps k s = .refused .instructionFetch)

/-- 40_command_cycle.md section 3 (R82), 60_exceptions.md section 4 (R131), under the model's schedule (assumption 2):
a halted host with a command in flight is not the end of a run; the command completes, the run has ended, and with no
input left the machine stays where it is (assumptions 20 and 23). -/
def Obligations.RunEndsAfterTheLastCompletion : Prop :=
  ∀ (s : State) (p : Pending), s.host.halted = true → s.pend = some p → s.inputs = [] →
    s.final = false ∧ ∃ t, step s = .next t ∧ t.final = true ∧ step t = .next t

/-! ### The host-script language -/

/-- 00_scope.md section 5 (R14): a script's write and read of a register are the aligned 32-bit bus accesses at
BASE + off(reg). -/
def Obligations.ScriptAccessIsBusAccess : Prop :=
  ∀ (s : State) (r : Reg) (v : Word),
    busAccess { kind := .write v, width := .bits32, addr := s.base + r.off } s = .next (s.hostWrite r v) ∧
    busAccess { kind := .read, width := .bits32, addr := s.base + r.off } s = .next (s.hostRead r)

/-- 30_encoding.md section 4 (R66): what each statement of the host-script language does on the host's turn, with a
fault for a variable nothing has written. That HALT leaves the statement counter where it is is the model's choice
(assumption 24). -/
def Obligations.ScriptStatementsRun : Prop :=
  ∀ (s : State) (st : Stmt Nat) (rest : List Input), s.inputs = .host :: rest → s.host.halted = false →
    s.host.program[s.host.hpc]? = some st →
    let u := { s with inputs := rest }
    let next := { s.host with hpc := s.host.hpc + 1 }
    (∀ r v, st = .wr r (.imm v) → step s = .next { u.hostWrite r v with host := next }) ∧
    (∀ r m, st = .wr r (.mnemonic m) → step s = .next { u.hostWrite r (encode m) with host := next }) ∧
    (∀ (r : Reg) (x : Var) (v : Word), st = .wr r (.var x) → s.host.vars[x] = some v →
      step s = .next { u.hostWrite r v with host := next }) ∧
    (∀ (r : Reg) (x : Var), st = .wr r (.var x) → s.host.vars[x] = none →
      step s = .fault .unwrittenVariable) ∧
    (∀ (x : Var) (r : Reg), st = .rd x r → step s =
      .next { u.hostRead r with host := { next with vars := s.host.vars.set x (some (s.busRead r)) } }) ∧
    (∀ (x : Var) (n : Fin 32) (l : Nat) (v : Word), s.host.vars[x] = some v →
      (st = .bs x n l → step s =
        .next { u with host := { s.host with hpc := if v.getLsbD n then l else s.host.hpc + 1 } }) ∧
      (st = .bc x n l → step s =
        .next { u with host := { s.host with hpc := if v.getLsbD n then s.host.hpc + 1 else l } })) ∧
    (∀ (x : Var) (n : Fin 32) (l : Nat), s.host.vars[x] = none → (st = .bs x n l ∨ st = .bc x n l) →
      step s = .fault .unwrittenVariable) ∧
    (st = .halt → step s = .next { u with host := { s.host with halted := true } })

/-- 30_encoding.md section 4 (R66, R67): every program the assembler makes, pseudo-instructions expanded, branches
only to statements it has. -/
def Obligations.AssembledProgramsBranchInside : Prop :=
  ∀ (text : List LabelledLine) (p : Program), assemble text = some p → Program.wf p = true

/-- R67: the expansion of each pseudo-instruction that starts at statement n of a program. -/
def Obligations.PseudoInstructionsExpand : Prop :=
  ∀ (n : Nat) (m : Instr) (x y z : Src),
    Line.expand n .wait = [.rd 7 .status, .bs 7 0 (.inr n)] ∧
    Line.expand n (.issue m) = [.wr .cmd (.mnemonic m)] ∧
    Line.expand n (.do1 m x) = [.wr .a x, .wr .cmd (.mnemonic m)] ++ Line.expand (n + 2) .wait ∧
    Line.expand n (.do2 m x y) = [.wr .a x, .wr .b y, .wr .cmd (.mnemonic m)] ++ Line.expand (n + 3) .wait ∧
    Line.expand n (.do3 m x y z) =
      [.wr .a x, .wr .b y, .wr .c z, .wr .cmd (.mnemonic m)] ++ Line.expand (n + 4) .wait ∧
    Line.expand n .clrErr = [.wr .status (.imm 0x00000018)] ∧
    (Line.do1 m x).wf = decide (m = .clz ∨ m = .rsqrt) ∧
    (Line.do2 m x y).wf = decide (m = .mulw ∨ m = .mul ∨ m = .udiv ∨ m = .umod) ∧
    (Line.do3 m x y z).wf = decide (m = .sll64 ∨ m = .srl64)
end

