-- ==== Sys2Proof/Laws/Operands.lean ====
section
/-! SUPPORT. Truncations, halves and pairs as numbers. -/

namespace Sys2Proof.Machine

@[simp] theorem trunc32_toNat (v : Nat) : (trunc32 v).toNat = v % 2 ^ 32 := by
  simp [trunc32, BitVec.toNat_ofNat]

/-- A number below 2^32 is not changed by truncation. -/
theorem trunc32_toNat_of_lt {v : Nat} (h : v < 2 ^ 32) : (trunc32 v).toNat = v := by
  rw [trunc32_toNat, Nat.mod_eq_of_lt h]

@[simp] theorem lowHalf_toNat (v : Nat) : (lowHalf v).toNat = v % 2 ^ 32 := trunc32_toNat v

@[simp] theorem highHalf_toNat (v : Nat) : (highHalf v).toNat = v / 2 ^ 32 % 2 ^ 32 := trunc32_toNat _

/-- The two halves of a 64-bit value make up the value. -/
theorem pairValue_halves {v : Nat} (h : v < 2 ^ 64) : pairValue (highHalf v) (lowHalf v) = v := by
  simp only [pairValue, lowHalf_toNat, highHalf_toNat]
  omega

theorem pairValue_lt (hi lo : Word) : pairValue hi lo < 2 ^ 64 := by
  have := hi.isLt
  have := lo.isLt
  simp only [pairValue]
  omega

/-- A pair is determined by its value. -/
theorem pairValue_inj {hi lo hi' lo' : Word} (h : pairValue hi lo = pairValue hi' lo') :
    hi = hi' ∧ lo = lo' := by
  have := lo.isLt
  have := lo'.isLt
  simp only [pairValue] at h
  exact ⟨BitVec.eq_of_toNat_eq (by omega), BitVec.eq_of_toNat_eq (by omega)⟩

/-- The halves of the value of a pair are the pair. -/
theorem halves_pairValue (hi lo : Word) :
    highHalf (pairValue hi lo) = hi ∧ lowHalf (pairValue hi lo) = lo :=
  pairValue_inj (pairValue_halves (pairValue_lt hi lo))

theorem shiftLeft64_lt (v amount : Nat) : shiftLeft64 v amount < 2 ^ 64 := by
  unfold shiftLeft64 trunc64
  split
  · decide
  · exact Nat.mod_lt _ (by decide)

theorem shiftRight64_le (v amount : Nat) : shiftRight64 v amount ≤ v := by
  unfold shiftRight64
  split
  · exact Nat.zero_le _
  · exact Nat.div_le_self _ _

theorem shiftLeft64_of_lt {v amount : Nat} (h : amount < 64) :
    shiftLeft64 v amount = v * 2 ^ amount % 2 ^ 64 := by
  simp [shiftLeft64, trunc64, Nat.not_le.mpr h]

theorem shiftRight64_of_lt {v amount : Nat} (h : amount < 64) : shiftRight64 v amount = v / 2 ^ amount := by
  simp [shiftRight64, Nat.not_le.mpr h]

end Sys2Proof.Machine
end

