-- ==== Sys2Proof/Laws/State.lean ====
section
/-! SUPPORT. For each named update of the state, what each field is after it: one lemma a field, true by `rfl`. -/

namespace Sys2Proof.Machine

section
variable (s : State)

/-! `State.accept` -/

@[simp] theorem State.accept_a (i : Instr) : (s.accept i).a = s.a := rfl
@[simp] theorem State.accept_b (i : Instr) : (s.accept i).b = s.b := rfl
@[simp] theorem State.accept_c (i : Instr) : (s.accept i).c = s.c := rfl
@[simp] theorem State.accept_resLo (i : Instr) : (s.accept i).resLo = s.resLo := rfl
@[simp] theorem State.accept_resHi (i : Instr) : (s.accept i).resHi = s.resHi := rfl
@[simp] theorem State.accept_dz (i : Instr) : (s.accept i).dz = s.dz := rfl
@[simp] theorem State.accept_inf (i : Instr) : (s.accept i).inf = s.inf := rfl
@[simp] theorem State.accept_ill (i : Instr) : (s.accept i).ill = s.ill := rfl
@[simp] theorem State.accept_coll (i : Instr) : (s.accept i).coll = s.coll := rfl
@[simp] theorem State.accept_pend (i : Instr) : (s.accept i).pend = some { op := i, a := s.a, b := s.b, c := s.c } := rfl
@[simp] theorem State.accept_table (i : Instr) : (s.accept i).table = s.table := rfl
@[simp] theorem State.accept_baseIndex (i : Instr) : (s.accept i).baseIndex = s.baseIndex := rfl
@[simp] theorem State.accept_resetAsserted (i : Instr) : (s.accept i).resetAsserted = s.resetAsserted := rfl
@[simp] theorem State.accept_host (i : Instr) : (s.accept i).host = s.host := rfl
@[simp] theorem State.accept_trace (i : Instr) : (s.accept i).trace = s.trace := rfl
@[simp] theorem State.accept_inputs (i : Instr) : (s.accept i).inputs = s.inputs := rfl

/-! `State.collide` -/

@[simp] theorem State.collide_a : (s.collide).a = s.a := rfl
@[simp] theorem State.collide_b : (s.collide).b = s.b := rfl
@[simp] theorem State.collide_c : (s.collide).c = s.c := rfl
@[simp] theorem State.collide_resLo : (s.collide).resLo = s.resLo := rfl
@[simp] theorem State.collide_resHi : (s.collide).resHi = s.resHi := rfl
@[simp] theorem State.collide_dz : (s.collide).dz = s.dz := rfl
@[simp] theorem State.collide_inf : (s.collide).inf = s.inf := rfl
@[simp] theorem State.collide_ill : (s.collide).ill = s.ill := rfl
@[simp] theorem State.collide_coll : (s.collide).coll = true := rfl
@[simp] theorem State.collide_pend : (s.collide).pend = s.pend := rfl
@[simp] theorem State.collide_table : (s.collide).table = s.table := rfl
@[simp] theorem State.collide_baseIndex : (s.collide).baseIndex = s.baseIndex := rfl
@[simp] theorem State.collide_resetAsserted : (s.collide).resetAsserted = s.resetAsserted := rfl
@[simp] theorem State.collide_host : (s.collide).host = s.host := rfl
@[simp] theorem State.collide_trace : (s.collide).trace = s.trace := rfl
@[simp] theorem State.collide_inputs : (s.collide).inputs = s.inputs := rfl

/-! `State.reject` -/

@[simp] theorem State.reject_a : (s.reject).a = s.a := rfl
@[simp] theorem State.reject_b : (s.reject).b = s.b := rfl
@[simp] theorem State.reject_c : (s.reject).c = s.c := rfl
@[simp] theorem State.reject_resLo : (s.reject).resLo = s.resLo := rfl
@[simp] theorem State.reject_resHi : (s.reject).resHi = s.resHi := rfl
@[simp] theorem State.reject_dz : (s.reject).dz = s.dz := rfl
@[simp] theorem State.reject_inf : (s.reject).inf = s.inf := rfl
@[simp] theorem State.reject_ill : (s.reject).ill = true := rfl
@[simp] theorem State.reject_coll : (s.reject).coll = s.coll := rfl
@[simp] theorem State.reject_pend : (s.reject).pend = s.pend := rfl
@[simp] theorem State.reject_table : (s.reject).table = s.table := rfl
@[simp] theorem State.reject_baseIndex : (s.reject).baseIndex = s.baseIndex := rfl
@[simp] theorem State.reject_resetAsserted : (s.reject).resetAsserted = s.resetAsserted := rfl
@[simp] theorem State.reject_host : (s.reject).host = s.host := rfl
@[simp] theorem State.reject_trace : (s.reject).trace = s.trace := rfl
@[simp] theorem State.reject_inputs : (s.reject).inputs = s.inputs := rfl

/-! `State.clearFlags` -/

@[simp] theorem State.clearFlags_a (w : Word) : (s.clearFlags w).a = s.a := rfl
@[simp] theorem State.clearFlags_b (w : Word) : (s.clearFlags w).b = s.b := rfl
@[simp] theorem State.clearFlags_c (w : Word) : (s.clearFlags w).c = s.c := rfl
@[simp] theorem State.clearFlags_resLo (w : Word) : (s.clearFlags w).resLo = s.resLo := rfl
@[simp] theorem State.clearFlags_resHi (w : Word) : (s.clearFlags w).resHi = s.resHi := rfl
@[simp] theorem State.clearFlags_dz (w : Word) : (s.clearFlags w).dz = s.dz := rfl
@[simp] theorem State.clearFlags_inf (w : Word) : (s.clearFlags w).inf = s.inf := rfl
@[simp] theorem State.clearFlags_ill (w : Word) : (s.clearFlags w).ill = (s.ill && !w.getLsbD 3) := rfl
@[simp] theorem State.clearFlags_coll (w : Word) : (s.clearFlags w).coll = (s.coll && !w.getLsbD 4) := rfl
@[simp] theorem State.clearFlags_pend (w : Word) : (s.clearFlags w).pend = s.pend := rfl
@[simp] theorem State.clearFlags_table (w : Word) : (s.clearFlags w).table = s.table := rfl
@[simp] theorem State.clearFlags_baseIndex (w : Word) : (s.clearFlags w).baseIndex = s.baseIndex := rfl
@[simp] theorem State.clearFlags_resetAsserted (w : Word) : (s.clearFlags w).resetAsserted = s.resetAsserted := rfl
@[simp] theorem State.clearFlags_host (w : Word) : (s.clearFlags w).host = s.host := rfl
@[simp] theorem State.clearFlags_trace (w : Word) : (s.clearFlags w).trace = s.trace := rfl
@[simp] theorem State.clearFlags_inputs (w : Word) : (s.clearFlags w).inputs = s.inputs := rfl

/-! `State.record` -/

@[simp] theorem State.record_a (e : BusEvent) : (s.record e).a = s.a := rfl
@[simp] theorem State.record_b (e : BusEvent) : (s.record e).b = s.b := rfl
@[simp] theorem State.record_c (e : BusEvent) : (s.record e).c = s.c := rfl
@[simp] theorem State.record_resLo (e : BusEvent) : (s.record e).resLo = s.resLo := rfl
@[simp] theorem State.record_resHi (e : BusEvent) : (s.record e).resHi = s.resHi := rfl
@[simp] theorem State.record_dz (e : BusEvent) : (s.record e).dz = s.dz := rfl
@[simp] theorem State.record_inf (e : BusEvent) : (s.record e).inf = s.inf := rfl
@[simp] theorem State.record_ill (e : BusEvent) : (s.record e).ill = s.ill := rfl
@[simp] theorem State.record_coll (e : BusEvent) : (s.record e).coll = s.coll := rfl
@[simp] theorem State.record_pend (e : BusEvent) : (s.record e).pend = s.pend := rfl
@[simp] theorem State.record_table (e : BusEvent) : (s.record e).table = s.table := rfl
@[simp] theorem State.record_baseIndex (e : BusEvent) : (s.record e).baseIndex = s.baseIndex := rfl
@[simp] theorem State.record_resetAsserted (e : BusEvent) : (s.record e).resetAsserted = s.resetAsserted := rfl
@[simp] theorem State.record_host (e : BusEvent) : (s.record e).host = s.host := rfl
@[simp] theorem State.record_trace (e : BusEvent) : (s.record e).trace = e :: s.trace := rfl
@[simp] theorem State.record_inputs (e : BusEvent) : (s.record e).inputs = s.inputs := rfl

/-! `State.retire` -/

@[simp] theorem State.retire_a (r : Result) : (s.retire r).a = s.a := rfl
@[simp] theorem State.retire_b (r : Result) : (s.retire r).b = s.b := rfl
@[simp] theorem State.retire_c (r : Result) : (s.retire r).c = s.c := rfl
@[simp] theorem State.retire_resLo (r : Result) : (s.retire r).resLo = r.lo := rfl
@[simp] theorem State.retire_resHi (r : Result) : (s.retire r).resHi = r.hi := rfl
@[simp] theorem State.retire_dz (r : Result) : (s.retire r).dz = r.dz := rfl
@[simp] theorem State.retire_inf (r : Result) : (s.retire r).inf = r.inf := rfl
@[simp] theorem State.retire_ill (r : Result) : (s.retire r).ill = s.ill := rfl
@[simp] theorem State.retire_coll (r : Result) : (s.retire r).coll = s.coll := rfl
@[simp] theorem State.retire_pend (r : Result) : (s.retire r).pend = none := rfl
@[simp] theorem State.retire_table (r : Result) : (s.retire r).table = s.table := rfl
@[simp] theorem State.retire_baseIndex (r : Result) : (s.retire r).baseIndex = s.baseIndex := rfl
@[simp] theorem State.retire_resetAsserted (r : Result) : (s.retire r).resetAsserted = s.resetAsserted := rfl
@[simp] theorem State.retire_host (r : Result) : (s.retire r).host = s.host := rfl
@[simp] theorem State.retire_trace (r : Result) : (s.retire r).trace = s.trace := rfl
@[simp] theorem State.retire_inputs (r : Result) : (s.retire r).inputs = s.inputs := rfl

/-! `State.clearRegs` -/

@[simp] theorem State.clearRegs_a : (s.clearRegs).a = 0 := rfl
@[simp] theorem State.clearRegs_b : (s.clearRegs).b = 0 := rfl
@[simp] theorem State.clearRegs_c : (s.clearRegs).c = 0 := rfl
@[simp] theorem State.clearRegs_resLo : (s.clearRegs).resLo = 0 := rfl
@[simp] theorem State.clearRegs_resHi : (s.clearRegs).resHi = 0 := rfl
@[simp] theorem State.clearRegs_dz : (s.clearRegs).dz = false := rfl
@[simp] theorem State.clearRegs_inf : (s.clearRegs).inf = false := rfl
@[simp] theorem State.clearRegs_ill : (s.clearRegs).ill = false := rfl
@[simp] theorem State.clearRegs_coll : (s.clearRegs).coll = false := rfl
@[simp] theorem State.clearRegs_pend : (s.clearRegs).pend = none := rfl
@[simp] theorem State.clearRegs_table : (s.clearRegs).table = s.table := rfl
@[simp] theorem State.clearRegs_baseIndex : (s.clearRegs).baseIndex = s.baseIndex := rfl
@[simp] theorem State.clearRegs_resetAsserted : (s.clearRegs).resetAsserted = s.resetAsserted := rfl
@[simp] theorem State.clearRegs_host : (s.clearRegs).host = s.host := rfl
@[simp] theorem State.clearRegs_trace : (s.clearRegs).trace = s.trace := rfl
@[simp] theorem State.clearRegs_inputs : (s.clearRegs).inputs = s.inputs := rfl

/-! `State.assertReset` -/

@[simp] theorem State.assertReset_a : (s.assertReset).a = 0 := rfl
@[simp] theorem State.assertReset_b : (s.assertReset).b = 0 := rfl
@[simp] theorem State.assertReset_c : (s.assertReset).c = 0 := rfl
@[simp] theorem State.assertReset_resLo : (s.assertReset).resLo = 0 := rfl
@[simp] theorem State.assertReset_resHi : (s.assertReset).resHi = 0 := rfl
@[simp] theorem State.assertReset_dz : (s.assertReset).dz = false := rfl
@[simp] theorem State.assertReset_inf : (s.assertReset).inf = false := rfl
@[simp] theorem State.assertReset_ill : (s.assertReset).ill = false := rfl
@[simp] theorem State.assertReset_coll : (s.assertReset).coll = false := rfl
@[simp] theorem State.assertReset_pend : (s.assertReset).pend = none := rfl
@[simp] theorem State.assertReset_table : (s.assertReset).table = s.table := rfl
@[simp] theorem State.assertReset_baseIndex : (s.assertReset).baseIndex = s.baseIndex := rfl
@[simp] theorem State.assertReset_resetAsserted : (s.assertReset).resetAsserted = true := rfl
@[simp] theorem State.assertReset_host : (s.assertReset).host = s.host := rfl
@[simp] theorem State.assertReset_trace : (s.assertReset).trace = s.trace := rfl
@[simp] theorem State.assertReset_inputs : (s.assertReset).inputs = s.inputs := rfl

/-! `State.releaseReset` -/

@[simp] theorem State.releaseReset_a : (s.releaseReset).a = 0 := rfl
@[simp] theorem State.releaseReset_b : (s.releaseReset).b = 0 := rfl
@[simp] theorem State.releaseReset_c : (s.releaseReset).c = 0 := rfl
@[simp] theorem State.releaseReset_resLo : (s.releaseReset).resLo = 0 := rfl
@[simp] theorem State.releaseReset_resHi : (s.releaseReset).resHi = 0 := rfl
@[simp] theorem State.releaseReset_dz : (s.releaseReset).dz = false := rfl
@[simp] theorem State.releaseReset_inf : (s.releaseReset).inf = false := rfl
@[simp] theorem State.releaseReset_ill : (s.releaseReset).ill = false := rfl
@[simp] theorem State.releaseReset_coll : (s.releaseReset).coll = false := rfl
@[simp] theorem State.releaseReset_pend : (s.releaseReset).pend = none := rfl
@[simp] theorem State.releaseReset_table : (s.releaseReset).table = s.table := rfl
@[simp] theorem State.releaseReset_baseIndex : (s.releaseReset).baseIndex = s.baseIndex := rfl
@[simp] theorem State.releaseReset_resetAsserted : (s.releaseReset).resetAsserted = false := rfl
@[simp] theorem State.releaseReset_host : (s.releaseReset).host = s.host := rfl
@[simp] theorem State.releaseReset_trace : (s.releaseReset).trace = s.trace := rfl
@[simp] theorem State.releaseReset_inputs : (s.releaseReset).inputs = s.inputs := rfl

/-! `State.advance` -/

@[simp] theorem State.advance_a : (s.advance).a = s.a := rfl
@[simp] theorem State.advance_b : (s.advance).b = s.b := rfl
@[simp] theorem State.advance_c : (s.advance).c = s.c := rfl
@[simp] theorem State.advance_resLo : (s.advance).resLo = s.resLo := rfl
@[simp] theorem State.advance_resHi : (s.advance).resHi = s.resHi := rfl
@[simp] theorem State.advance_dz : (s.advance).dz = s.dz := rfl
@[simp] theorem State.advance_inf : (s.advance).inf = s.inf := rfl
@[simp] theorem State.advance_ill : (s.advance).ill = s.ill := rfl
@[simp] theorem State.advance_coll : (s.advance).coll = s.coll := rfl
@[simp] theorem State.advance_pend : (s.advance).pend = s.pend := rfl
@[simp] theorem State.advance_table : (s.advance).table = s.table := rfl
@[simp] theorem State.advance_baseIndex : (s.advance).baseIndex = s.baseIndex := rfl
@[simp] theorem State.advance_resetAsserted : (s.advance).resetAsserted = s.resetAsserted := rfl
@[simp] theorem State.advance_host : (s.advance).host = { s.host with hpc := s.host.hpc + 1 } := rfl
@[simp] theorem State.advance_trace : (s.advance).trace = s.trace := rfl
@[simp] theorem State.advance_inputs : (s.advance).inputs = s.inputs := rfl

/-! `State.jump` -/

@[simp] theorem State.jump_a (l : Nat) : (s.jump l).a = s.a := rfl
@[simp] theorem State.jump_b (l : Nat) : (s.jump l).b = s.b := rfl
@[simp] theorem State.jump_c (l : Nat) : (s.jump l).c = s.c := rfl
@[simp] theorem State.jump_resLo (l : Nat) : (s.jump l).resLo = s.resLo := rfl
@[simp] theorem State.jump_resHi (l : Nat) : (s.jump l).resHi = s.resHi := rfl
@[simp] theorem State.jump_dz (l : Nat) : (s.jump l).dz = s.dz := rfl
@[simp] theorem State.jump_inf (l : Nat) : (s.jump l).inf = s.inf := rfl
@[simp] theorem State.jump_ill (l : Nat) : (s.jump l).ill = s.ill := rfl
@[simp] theorem State.jump_coll (l : Nat) : (s.jump l).coll = s.coll := rfl
@[simp] theorem State.jump_pend (l : Nat) : (s.jump l).pend = s.pend := rfl
@[simp] theorem State.jump_table (l : Nat) : (s.jump l).table = s.table := rfl
@[simp] theorem State.jump_baseIndex (l : Nat) : (s.jump l).baseIndex = s.baseIndex := rfl
@[simp] theorem State.jump_resetAsserted (l : Nat) : (s.jump l).resetAsserted = s.resetAsserted := rfl
@[simp] theorem State.jump_host (l : Nat) : (s.jump l).host = { s.host with hpc := l } := rfl
@[simp] theorem State.jump_trace (l : Nat) : (s.jump l).trace = s.trace := rfl
@[simp] theorem State.jump_inputs (l : Nat) : (s.jump l).inputs = s.inputs := rfl

/-! `State.setVar` -/

@[simp] theorem State.setVar_a (t : Var) (v : Word) : (s.setVar t v).a = s.a := rfl
@[simp] theorem State.setVar_b (t : Var) (v : Word) : (s.setVar t v).b = s.b := rfl
@[simp] theorem State.setVar_c (t : Var) (v : Word) : (s.setVar t v).c = s.c := rfl
@[simp] theorem State.setVar_resLo (t : Var) (v : Word) : (s.setVar t v).resLo = s.resLo := rfl
@[simp] theorem State.setVar_resHi (t : Var) (v : Word) : (s.setVar t v).resHi = s.resHi := rfl
@[simp] theorem State.setVar_dz (t : Var) (v : Word) : (s.setVar t v).dz = s.dz := rfl
@[simp] theorem State.setVar_inf (t : Var) (v : Word) : (s.setVar t v).inf = s.inf := rfl
@[simp] theorem State.setVar_ill (t : Var) (v : Word) : (s.setVar t v).ill = s.ill := rfl
@[simp] theorem State.setVar_coll (t : Var) (v : Word) : (s.setVar t v).coll = s.coll := rfl
@[simp] theorem State.setVar_pend (t : Var) (v : Word) : (s.setVar t v).pend = s.pend := rfl
@[simp] theorem State.setVar_table (t : Var) (v : Word) : (s.setVar t v).table = s.table := rfl
@[simp] theorem State.setVar_baseIndex (t : Var) (v : Word) : (s.setVar t v).baseIndex = s.baseIndex := rfl
@[simp] theorem State.setVar_resetAsserted (t : Var) (v : Word) : (s.setVar t v).resetAsserted = s.resetAsserted := rfl
@[simp] theorem State.setVar_host (t : Var) (v : Word) : (s.setVar t v).host = { s.host with vars := s.host.vars.set t (some v) } := rfl
@[simp] theorem State.setVar_trace (t : Var) (v : Word) : (s.setVar t v).trace = s.trace := rfl
@[simp] theorem State.setVar_inputs (t : Var) (v : Word) : (s.setVar t v).inputs = s.inputs := rfl

/-! `State.halt` -/

@[simp] theorem State.halt_a : (s.halt).a = s.a := rfl
@[simp] theorem State.halt_b : (s.halt).b = s.b := rfl
@[simp] theorem State.halt_c : (s.halt).c = s.c := rfl
@[simp] theorem State.halt_resLo : (s.halt).resLo = s.resLo := rfl
@[simp] theorem State.halt_resHi : (s.halt).resHi = s.resHi := rfl
@[simp] theorem State.halt_dz : (s.halt).dz = s.dz := rfl
@[simp] theorem State.halt_inf : (s.halt).inf = s.inf := rfl
@[simp] theorem State.halt_ill : (s.halt).ill = s.ill := rfl
@[simp] theorem State.halt_coll : (s.halt).coll = s.coll := rfl
@[simp] theorem State.halt_pend : (s.halt).pend = s.pend := rfl
@[simp] theorem State.halt_table : (s.halt).table = s.table := rfl
@[simp] theorem State.halt_baseIndex : (s.halt).baseIndex = s.baseIndex := rfl
@[simp] theorem State.halt_resetAsserted : (s.halt).resetAsserted = s.resetAsserted := rfl
@[simp] theorem State.halt_host : (s.halt).host = { s.host with halted := true } := rfl
@[simp] theorem State.halt_trace : (s.halt).trace = s.trace := rfl
@[simp] theorem State.halt_inputs : (s.halt).inputs = s.inputs := rfl

end

end Sys2Proof.Machine
end

