-- ==== Sys2Proof/Laws/Ops.lean ====
section
/-! SUPPORT. What each shared operation can do, said once: command requests, register writes, bus accesses and
completions. -/

namespace Sys2Proof.Machine

/-- BUSY is the view of PEND. -/
theorem busy_eq_false {s : State} : s.busy = false ↔ s.pend = none := by
  cases h : s.pend <;> simp [State.busy, h]

theorem busy_eq_true {s : State} : s.busy = true ↔ ∃ p, s.pend = some p := by
  cases h : s.pend <;> simp [State.busy, h]

/-- A command request collides, is accepted or is rejected. -/
theorem commandRequest_cases (w : Word) (s : State) :
    (s.busy = true ∧ s.commandRequest w = s.collide) ∨
    (s.busy = false ∧ ∃ i, decode w = .command i ∧ s.commandRequest w = s.accept i) ∨
    (s.busy = false ∧ ∃ why, decode w = .reserved why ∧ s.commandRequest w = s.reject) := by
  unfold State.commandRequest
  cases hb : s.busy
  · cases hd : decode w with
    | command i => exact .inr (.inl ⟨rfl, i, rfl, by simp⟩)
    | reserved why => exact .inr (.inr ⟨rfl, why, rfl, by simp⟩)
  · exact .inl ⟨rfl, by simp⟩

/-- What a register write leaves alone, whatever the register. -/
theorem writeReg_frame (r : Reg) (v : Word) (s : State) :
    (s.writeReg r v).resLo = s.resLo ∧ (s.writeReg r v).resHi = s.resHi ∧ (s.writeReg r v).dz = s.dz ∧
    (s.writeReg r v).inf = s.inf ∧ (s.writeReg r v).table = s.table ∧
    (s.writeReg r v).baseIndex = s.baseIndex ∧ (s.writeReg r v).resetAsserted = s.resetAsserted ∧
    (s.writeReg r v).host = s.host ∧ (s.writeReg r v).trace = s.trace ∧
    (s.writeReg r v).inputs = s.inputs := by
  cases r with
  | cmd =>
    simp only [State.writeReg]
    rcases commandRequest_cases v s with ⟨_, h⟩ | ⟨_, i, _, h⟩ | ⟨_, why, _, h⟩ <;> simp [h]
  | _ => simp [State.writeReg]

@[simp] theorem hostWrite_table (r : Reg) (v : Word) (s : State) : (s.hostWrite r v).table = s.table := by
  unfold State.hostWrite
  split <;> simp [writeReg_frame]

@[simp] theorem hostWrite_baseIndex (r : Reg) (v : Word) (s : State) :
    (s.hostWrite r v).baseIndex = s.baseIndex := by
  unfold State.hostWrite
  split <;> simp [writeReg_frame]

@[simp] theorem hostWrite_resetAsserted (r : Reg) (v : Word) (s : State) :
    (s.hostWrite r v).resetAsserted = s.resetAsserted := by
  unfold State.hostWrite
  split <;> simp [writeReg_frame]

@[simp] theorem hostWrite_resLo (r : Reg) (v : Word) (s : State) : (s.hostWrite r v).resLo = s.resLo := by
  unfold State.hostWrite
  split <;> simp [writeReg_frame]

@[simp] theorem hostWrite_resHi (r : Reg) (v : Word) (s : State) : (s.hostWrite r v).resHi = s.resHi := by
  unfold State.hostWrite
  split <;> simp [writeReg_frame]

@[simp] theorem hostWrite_dz (r : Reg) (v : Word) (s : State) : (s.hostWrite r v).dz = s.dz := by
  unfold State.hostWrite
  split <;> simp [writeReg_frame]

@[simp] theorem hostWrite_inf (r : Reg) (v : Word) (s : State) : (s.hostWrite r v).inf = s.inf := by
  unfold State.hostWrite
  split <;> simp [writeReg_frame]

@[simp] theorem hostWrite_host (r : Reg) (v : Word) (s : State) : (s.hostWrite r v).host = s.host := by
  unfold State.hostWrite
  split <;> simp [writeReg_frame]

@[simp] theorem hostWrite_inputs (r : Reg) (v : Word) (s : State) : (s.hostWrite r v).inputs = s.inputs := by
  unfold State.hostWrite
  split <;> simp [writeReg_frame]

@[simp] theorem hostWrite_trace (r : Reg) (v : Word) (s : State) :
    (s.hostWrite r v).trace = .write r v :: s.trace := by
  unfold State.hostWrite
  split <;> simp [writeReg_frame]

/-- In reset a host write is only recorded. -/
theorem hostWrite_in_reset {s : State} (h : s.resetAsserted = true) (r : Reg) (v : Word) :
    s.hostWrite r v = s.record (.write r v) := by
  simp [State.hostWrite, h]

/-- Out of reset a host write writes the register and is recorded. -/
theorem hostWrite_out_of_reset {s : State} (h : s.resetAsserted = false) (r : Reg) (v : Word) :
    s.hostWrite r v = (s.writeReg r v).record (.write r v) := by
  simp [State.hostWrite, h]

/-- The address BASE + off of a register selects it. -/
theorem target_off (s : State) (r : Reg) : s.target .bits32 (s.base + r.off) = .reg r := by
  have h : (s.base + r.off - s.base) = r.off := by omega
  unfold State.target
  rw [h]
  cases r <;> simp [Reg.off, Width.bytes, Config.windowBytes, Reg.ofSlot, Fin.ofNat] <;> omega

/-- A bus access that answers a next state is outside the window, a read, or a write. -/
theorem busAccess_next {acc : Access} {s t : State} (h : busAccess acc s = .next t) :
    t = s ∨ (∃ r, t = s.hostRead r) ∨ ∃ r v, acc.kind = .write v ∧ t = s.hostWrite r v := by
  obtain ⟨kind, width, addr⟩ := acc
  simp only [busAccess] at h
  cases ht : s.target width addr with
  | outside => simp only [ht, Host.Outcome.next.injEq] at h; exact .inl h.symm
  | bad => cases kind <;> simp [ht] at h
  | reg r =>
    cases kind with
    | read => simp only [ht, Host.Outcome.next.injEq] at h; exact .inr (.inl ⟨r, h.symm⟩)
    | write v => simp only [ht, Host.Outcome.next.injEq] at h; exact .inr (.inr ⟨r, v, rfl, h.symm⟩)
    | fetch => simp [ht] at h

/-- A bus access stops only on a bad access or on an instruction fetch. -/
theorem busAccess_stops (acc : Access) (s : State) :
    (∃ t, busAccess acc s = .next t) ∨ busAccess acc s = .fault .badAccess ∨
    busAccess acc s = .refused .instructionFetch := by
  obtain ⟨kind, width, addr⟩ := acc
  simp only [busAccess]
  cases s.target width addr <;> cases kind <;> simp

/-- A completion that answers a next state retires the command in flight. -/
theorem completeWith_next {i : Instr} {f : Word → Word → Word → Result} {s t : State}
    (h : completeWith i f s = .next t) :
    ∃ a b c, s.pend = some { op := i, a := a, b := b, c := c } ∧ t = s.retire (f a b c) := by
  unfold completeWith at h
  split at h
  · next p hp =>
    split at h
    · next hi =>
      obtain ⟨op, a, b, c⟩ := p
      subst hi
      exact ⟨a, b, c, hp, by simpa using h.symm⟩
    · simp at h
  · simp at h

/-- A completion of the command in flight always answers a next state. -/
theorem completeWith_runs {i : Instr} {s : State} {a b c : Word}
    (h : s.pend = some { op := i, a := a, b := b, c := c }) (f : Word → Word → Word → Result) :
    completeWith i f s = .next (s.retire (f a b c)) := by
  simp [completeWith, h]

end Sys2Proof.Machine
end

