-- ==== Sys2Proof/Laws/PerInstr.lean ====
section
/-! SUPPORT. The family EncodesLegally: the word of each command passes both checks of R59 and carries its code. -/

namespace Sys2Proof.Laws.EncodesLegally

/-- The command's word is legal, its RSV field is 0, and its OP field is the command's code (R58, R59). -/
def Statement (i : Instr) : Prop :=
  legalWord (encode i) = true ∧ rsvField (encode i) = 0 ∧ opField (encode i) = opcode i

theorem clz : Statement .clz := ⟨by decide, by decide, by decide⟩
theorem mulw : Statement .mulw := ⟨by decide, by decide, by decide⟩
theorem mul : Statement .mul := ⟨by decide, by decide, by decide⟩
theorem udiv : Statement .udiv := ⟨by decide, by decide, by decide⟩
theorem umod : Statement .umod := ⟨by decide, by decide, by decide⟩
theorem sll64 : Statement .sll64 := ⟨by decide, by decide, by decide⟩
theorem srl64 : Statement .srl64 := ⟨by decide, by decide, by decide⟩
theorem rsqrt : Statement .rsqrt := ⟨by decide, by decide, by decide⟩

end Sys2Proof.Laws.EncodesLegally
end

