-- ==== Sys2Proof/Laws/Step.lean ====
section
/-! SUPPORT. What a completion, a statement of a script, and a step of the machine can do, said once, for proofs to
cite instead of unfolding `exec` and `step`. -/

namespace Sys2Proof.Machine

/-- The result function of a command: `exec(op, a, b, c)` of R15, in one place for proofs. -/
def resultOf (table : Table) : Instr → Word → Word → Word → Result
  | .clz => clzResult
  | .mulw => mulwResult
  | .mul => mulResult
  | .udiv => udivResult
  | .umod => umodResult
  | .sll64 => sll64Result
  | .srl64 => srl64Result
  | .rsqrt => rsqrtResult table

/-- Every command is a completion with its result function. -/
theorem exec_eq_completeWith (i : Instr) (s : State) : exec i s = completeWith i (resultOf s.table i) s := by
  cases i <;> rfl

/-- `exec` of the command in flight retires its result. -/
theorem exec_inFlight {s : State} {p : Pending} (h : s.pend = some p) :
    exec p.op s = .next (s.retire (resultOf s.table p.op p.a p.b p.c)) := by
  rw [exec_eq_completeWith]
  exact completeWith_runs h _

/-- `exec` answers a next state only for the command in flight. -/
theorem exec_next {i : Instr} {s t : State} (h : exec i s = .next t) :
    ∃ a b c, s.pend = some { op := i, a := a, b := b, c := c } ∧
      t = s.retire (resultOf s.table i a b c) := by
  rw [exec_eq_completeWith] at h
  exact completeWith_next h

/-- DZ of a result: a division with a zero divisor. -/
theorem resultOf_dz (table : Table) (i : Instr) (a b c : Word) :
    (resultOf table i a b c).dz = ((i == .udiv || i == .umod) && b == 0) := by
  cases i <;> rfl

/-- INF of a result: RSQRT of 0. -/
theorem resultOf_inf (table : Table) (i : Instr) (a b c : Word) :
    (resultOf table i a b c).inf = (i == .rsqrt && a == 0) := by
  cases i <;> rfl

/-- The turn of the execution unit retires the command in flight, or does nothing. -/
theorem completeTurn_cases (s : State) :
    (s.pend = none ∧ completeTurn s = .next s) ∨
    ∃ p, s.pend = some p ∧ completeTurn s = exec p.op s ∧
      completeTurn s = .next (s.retire (resultOf s.table p.op p.a p.b p.c)) := by
  cases h : s.pend with
  | none => exact .inl ⟨rfl, by simp [completeTurn, h]⟩
  | some p => exact .inr ⟨p, rfl, by simp [completeTurn, h], by simp [completeTurn, h, exec_inFlight h]⟩

/-- What a script statement does to CORE: nothing, a read, or a write, and then the host's own state changes. -/
theorem runStmt_next {st : Stmt Nat} {s t : State} (h : runStmt st s = .next t) :
    (∃ g, t = { s with host := g }) ∨ (∃ r g, t = { s.hostRead r with host := g }) ∨
    ∃ r v g, t = { s.hostWrite r v with host := g } := by
  cases st with
  | wr r src =>
    simp only [runStmt] at h
    split at h
    · simp at h
    · next v _ =>
      simp only [Host.Outcome.next.injEq] at h
      exact .inr (.inr ⟨r, v, _, h.symm⟩)
  | rd x r =>
    simp only [runStmt, Host.Outcome.next.injEq] at h
    exact .inr (.inl ⟨r, _, h.symm⟩)
  | bs x n l =>
    simp only [runStmt, branchOn] at h
    split at h
    · simp at h
    · simp only [Host.Outcome.next.injEq] at h
      split at h <;> exact .inl ⟨_, h.symm⟩
  | bc x n l =>
    simp only [runStmt, branchOn] at h
    split at h
    · simp at h
    · simp only [Host.Outcome.next.injEq] at h
      split at h <;> exact .inl ⟨_, h.symm⟩
  | halt =>
    simp only [runStmt, Host.Outcome.next.injEq] at h
    exact .inl ⟨_, h.symm⟩

/-- The host's turn, likewise. -/
theorem hostTurn_next {s t : State} (h : hostTurn s = .next t) :
    (∃ g, t = { s with host := g }) ∨ (∃ r g, t = { s.hostRead r with host := g }) ∨
    ∃ r v g, t = { s.hostWrite r v with host := g } := by
  unfold hostTurn at h
  split at h
  · simp only [Host.Outcome.next.injEq] at h
    exact .inl ⟨s.host, h.symm⟩
  · split at h
    · exact runStmt_next h
    · simp at h

/-- A step whose next input is a bus write to a register is that register's host write. -/
theorem step_write {s : State} {r : Reg} {v : Word} {rest : List Input} (h : s.NextIsWrite r.off v rest) :
    step s = .next (State.hostWrite r v { s with inputs := rest }) := by
  have ht : ({ s with inputs := rest } : State).target .bits32 (s.base + r.off) = .reg r :=
    target_off { s with inputs := rest } r
  unfold State.NextIsWrite at h
  simp only [step, turn, h, runInput, busAccess, ht]

/-- A step whose next input is a bus read of a register is that register's host read. -/
theorem step_read {s : State} {r : Reg} {rest : List Input} (h : s.NextIsRead r.off rest) :
    step s = .next (State.hostRead r { s with inputs := rest }) := by
  have ht : ({ s with inputs := rest } : State).target .bits32 (s.base + r.off) = .reg r :=
    target_off { s with inputs := rest } r
  unfold State.NextIsRead at h
  simp only [step, turn, h, runInput, busAccess, ht]

/-- The state a turn acts on: the next input is taken off the schedule. -/
def State.popInput (s : State) : State := { s with inputs := s.inputs.tail }

/-- Every step that answers a next state leaves CORE alone, reads a register, writes a register, completes the
command in flight, or resets; the host's own state may change beside the first three. -/
theorem step_next {s t : State} (h : step s = .next t) :
    (¬(s.inputs.head? = some .resetAssert ∨ s.inputs.head? = some .resetRelease) ∧
      ((∃ g, t = { s.popInput with host := g }) ∨ (∃ r g, t = { s.popInput.hostRead r with host := g }) ∨
       (∃ r v g, t = { s.popInput.hostWrite r v with host := g }) ∨
       ∃ p, s.pend = some p ∧ exec p.op s.popInput = .next t ∧
        t = s.popInput.retire (resultOf s.table p.op p.a p.b p.c))) ∨
    (s.inputs.head? = some .resetAssert ∧ t = s.popInput.assertReset) ∨
    (s.inputs.head? = some .resetRelease ∧ t = s.popInput.releaseReset) := by
  have complete {u : State} (hu : u.pend = s.pend) (htab : u.table = s.table)
      (h : completeTurn u = .next t) :
      (∃ g, t = { u with host := g }) ∨
      ∃ p, s.pend = some p ∧ exec p.op u = .next t ∧ t = u.retire (resultOf s.table p.op p.a p.b p.c) := by
    rcases completeTurn_cases u with ⟨_, hc⟩ | ⟨p, hp, he, hc⟩
    · rw [hc, Host.Outcome.next.injEq] at h
      exact .inl ⟨u.host, h.symm⟩
    · rw [hc, Host.Outcome.next.injEq] at h
      exact .inr ⟨p, hu ▸ hp, by rw [← he, hc, h], by rw [← htab]; exact h.symm⟩
  unfold step turn at h
  cases hin : s.inputs with
  | nil =>
    have hpop : s.popInput = s := by unfold State.popInput; simp only [hin, List.tail_nil]; rw [← hin]
    simp only [hin, defaultTurn] at h
    refine .inl ⟨by simp, ?_⟩
    rw [hpop]
    split at h
    · rcases complete rfl rfl h with hg | hp
      · exact .inl hg
      · exact .inr (.inr (.inr hp))
    · rcases hostTurn_next h with hg | hg | hg
      · exact .inl hg
      · exact .inr (.inl hg)
      · exact .inr (.inr (.inl hg))
  | cons i rest =>
    have hpop : s.popInput = { s with inputs := rest } := by simp [State.popInput, hin]
    simp only [hin] at h
    rw [← hpop] at h
    cases i with
    | bus acc =>
      refine .inl ⟨by simp, ?_⟩
      rcases busAccess_next h with hg | ⟨r, hg⟩ | ⟨r, v, _, hg⟩
      · exact .inl ⟨s.popInput.host, hg⟩
      · exact .inr (.inl ⟨r, (s.popInput.hostRead r).host, hg⟩)
      · exact .inr (.inr (.inl ⟨r, v, (s.popInput.hostWrite r v).host, hg⟩))
    | host =>
      refine .inl ⟨by simp, ?_⟩
      rcases hostTurn_next h with hg | hg | hg
      · exact .inl hg
      · exact .inr (.inl hg)
      · exact .inr (.inr (.inl hg))
    | complete =>
      refine .inl ⟨by simp, ?_⟩
      rcases complete (u := s.popInput) rfl rfl h with hg | hp
      · exact .inl hg
      · exact .inr (.inr (.inr hp))
    | resetAssert =>
      simp only [runInput, Host.Outcome.next.injEq] at h
      exact .inr (.inl ⟨by simp, h.symm⟩)
    | resetRelease =>
      simp only [runInput, Host.Outcome.next.injEq] at h
      exact .inr (.inr ⟨by simp, h.symm⟩)

/-- Every step takes one input off the schedule, if there is one. -/
theorem step_inputs {s t : State} (h : step s = .next t) : t.inputs = s.inputs.tail := by
  rcases step_next h with
    ⟨_, ⟨g, rfl⟩ | ⟨r, g, rfl⟩ | ⟨r, v, g, rfl⟩ | ⟨p, _, _, rfl⟩⟩ | ⟨_, rfl⟩ | ⟨_, rfl⟩ <;>
    simp [State.popInput, State.hostRead]

/-- No statement of a script is refused. -/
theorem runStmt_not_refused (st : Stmt Nat) (s : State) (r : Refusal) : runStmt st s ≠ .refused r := by
  cases st <;> simp only [runStmt, branchOn] <;> (try split) <;> simp

/-- A step is refused only where the host fetches an instruction from the window. -/
theorem step_refused {s : State} {r : Refusal} (h : step s = .refused r) : r = .instructionFetch := by
  have complete (u : State) : completeTurn u ≠ .refused r := by
    rcases completeTurn_cases u with ⟨_, hc⟩ | ⟨p, _, _, hc⟩ <;> simp [hc]
  have host (u : State) : hostTurn u ≠ .refused r := by
    unfold hostTurn
    split
    · simp
    · split
      · exact runStmt_not_refused _ _ _
      · simp
  unfold step turn at h
  split at h
  · next i rest _ =>
    cases i with
    | bus acc =>
      simp only [runInput] at h
      rcases busAccess_stops acc { s with inputs := rest } with ⟨t, ht⟩ | ht | ht <;> rw [ht] at h <;>
        simp at h
      exact h.symm
    | host => exact absurd h (host _)
    | complete => exact absurd h (complete _)
    | resetAssert => simp [runInput] at h
    | resetRelease => simp [runInput] at h
  · unfold defaultTurn at h
    split at h
    · exact absurd h (complete _)
    · exact absurd h (host _)

/-- `tableWord` accepts exactly the 32-bit words (R57). -/
theorem tableWord_eq_some {nbits w : Nat} {v : Word} :
    tableWord nbits w = some v ↔ nbits = 32 ∧ w = v.toNat := by
  unfold tableWord
  split
  · rename_i h
    simp only [Option.some.injEq, h.1, true_and]
    constructor
    · rintro rfl; exact (Nat.mod_eq_of_lt h.2).symm
    · rintro rfl; simp
  · rename_i h
    simp only [reduceCtorEq, false_iff, not_and]
    rintro rfl rfl
    exact h ⟨rfl, v.isLt⟩

end Sys2Proof.Machine
end

