-- ==== Sys2Proof/Laws/Results.lean ====
section
/-! SUPPORT. The results of the commands as numbers: one spec lemma for each function that the statements' proofs
would otherwise unfold. -/

namespace Sys2Proof.Machine

/-- `exec` of a command on operands put into PEND. -/
theorem exec_latched (s : State) (i : Instr) (a b c : Word) :
    exec i { s with pend := some { op := i, a := a, b := b, c := c } } =
      .next (State.retire (resultOf s.table i a b c)
        { s with pend := some { op := i, a := a, b := b, c := c } }) :=
  exec_inFlight (s := { s with pend := some { op := i, a := a, b := b, c := c } })
    (p := { op := i, a := a, b := b, c := c }) rfl

theorem toNat_ne_zero {x : Word} (h : x ≠ 0) : x.toNat ≠ 0 :=
  fun hx => h (BitVec.eq_of_toNat_eq (by simpa using hx))

/-- A nonzero word's count is the one that brackets it between two powers of two. -/
theorem clz_bounds {x : Word} (h : x ≠ 0) :
    clz x ≤ 31 ∧ 2 ^ (31 - clz x) ≤ x.toNat ∧ x.toNat < 2 ^ (32 - clz x) := by
  have hne := toNat_ne_zero h
  have hl : Nat.log2 x.toNat < 32 := (Nat.log2_lt hne).2 x.isLt
  have hlo := Nat.log2_self_le hne
  have hhi : x.toNat < 2 ^ (Nat.log2 x.toNat + 1) := Nat.lt_log2_self
  simp only [clz, if_neg h]
  refine ⟨by omega, ?_, ?_⟩
  · rwa [show 31 - (31 - Nat.log2 x.toNat) = Nat.log2 x.toNat by omega]
  · rwa [show 32 - (31 - Nat.log2 x.toNat) = Nat.log2 x.toNat + 1 by omega]

/-- The count is determined by the bracket. -/
theorem clz_eq_of_bounds {x : Word} {n : Nat} (hn : n ≤ 31) (hlo : 2 ^ (31 - n) ≤ x.toNat)
    (hhi : x.toNat < 2 ^ (32 - n)) : clz x = n := by
  have hne : x.toNat ≠ 0 := by
    have := Nat.two_pow_pos (31 - n)
    omega
  have hx : x ≠ 0 := by
    rintro rfl
    exact hne rfl
  have hlog : Nat.log2 x.toNat = 31 - n :=
    (Nat.log2_eq_iff hne).2 ⟨hlo, by rwa [show 31 - n + 1 = 32 - n by omega]⟩
  simp only [clz, if_neg hx, hlog]
  omega

theorem clz_le (x : Word) : clz x ≤ 32 := by
  unfold clz
  split <;> omega

theorem mulWide_lt (a b : Word) : mulWide a b < 2 ^ 64 := by
  have := Nat.mul_lt_mul'' a.isLt b.isLt
  unfold mulWide
  norm_num at *
  omega

/-- The value of SLL64's result pair. -/
theorem sll64Result_value (a b c : Word) :
    pairValue (sll64Result a b c).hi (sll64Result a b c).lo = shiftLeft64 (pairValue b a) c.toNat :=
  pairValue_halves (shiftLeft64_lt _ _)

/-- The value of SRL64's result pair. -/
theorem srl64Result_value (a b c : Word) :
    pairValue (srl64Result a b c).hi (srl64Result a b c).lo = shiftRight64 (pairValue b a) c.toNat :=
  pairValue_halves (lt_of_le_of_lt (shiftRight64_le _ _) (pairValue_lt _ _))

/-- The exponent of stage 1 is the position of the most significant set bit. -/
theorem rsqrtExp_eq {x : Word} {e : Fin 32} (hlo : 2 ^ e.val ≤ x.toNat) (hhi : x.toNat < 2 ^ (e.val + 1)) :
    rsqrtExp x = e := by
  have hc : clz x = 31 - e.val :=
    clz_eq_of_bounds (by omega) (by rwa [show 31 - (31 - e.val) = e.val by omega])
      (by rwa [show 32 - (31 - e.val) = e.val + 1 by omega])
  apply Fin.ext
  simp only [rsqrtExp, hc]
  omega

/-- One Newton iteration in integers, with every truncation written out. -/
theorem newton_toNat (x y : Word) :
    (newton x y).toNat =
      y.toNat * ((2 ^ 32 - x.toNat * (y.toNat * y.toNat % 2 ^ 32) / 2 ^ 16 % 2 ^ 32 + 196608) % 2 ^ 32)
        / 2 ^ 17 % 2 ^ 32 := by
  simp only [newton, newtonF, newtonXy2, newtonY2, mulWide, trunc32_toNat,
    shiftRight64_of_lt (show 16 < 64 by decide), shiftRight64_of_lt (show 17 < 64 by decide),
    BitVec.toNat_sub]
  rfl

end Sys2Proof.Machine
end

