-- ==== Sys2Proof/Laws/Run.lean ====
section
/-! SUPPORT. Runs of the machine: one step more, and what a run keeps if every step does. -/

namespace Sys2Proof.Machine

@[simp] theorem run_zero (s : State) : runSteps 0 s = .next s := rfl

/-- A run of one step more takes the step first. -/
theorem run_succ (k : Nat) (s : State) :
    runSteps (k + 1) s =
      match step s with
      | .next t => runSteps k t
      | .fault f => .fault f
      | .refused r => .refused r := rfl

/-- After a step that answers a next state, the run goes on from it. -/
theorem run_succ_of_step {s t : State} (h : step s = .next t) (k : Nat) :
    runSteps (k + 1) s = runSteps k t := by
  rw [run_succ, h]

/-- A property that every step keeps holds at the end of every run that starts with it. -/
theorem run_keeps {P : State → Prop} (hP : ∀ s t, P s → step s = .next t → P t) :
    ∀ (k : Nat) (s t : State), P s → runSteps k s = .next t → P t := by
  intro k
  induction k with
  | zero =>
    intro s t hs h
    rw [run_zero, Host.Outcome.next.injEq] at h
    exact h ▸ hs
  | succ k ih =>
    intro s t hs h
    rw [run_succ] at h
    split at h
    · next u hu => exact ih u t (hP s u hs hu) h
    · simp at h
    · simp at h

end Sys2Proof.Machine
end

