-- ==== Sys2Proof/Tests/Slice0.lean ====
section
/-! SUPPORT. The model's own tests. Expected values are the spec's: its opcode map (30_encoding.md section 2), its
vectors V0 to V5 (95_test_vectors.md) and its examples. The second half shows, for each statement with hypotheses, a
state that meets them. -/

namespace Sys2Proof.Tests

open Sys2Proof Sys2Proof.Machine

/-! ### Helpers -/

/-- A machine after reset, its window at 0x20, with operands 5, 3, 4 and the given inputs. -/
def idle (inputs : List Input) : State :=
  { State.resetWith 1 Config.rsqrtTable with a := 5, b := 3, c := 4, inputs := inputs }

/-- The same with a command in flight on the given operands. -/
def inFlight (i : Instr) (a b c : Word) (inputs : List Input := []) : State :=
  { idle inputs with pend := some { op := i, a := a, b := b, c := c } }

/-- A bus write of `v` at offset `off` of the window at 0x20. -/
def wr (off : Nat) (v : Word) : Input := .bus { kind := .write v, width := .bits32, addr := 0x20 + off }

/-- A bus read at offset `off` of the window at 0x20. -/
def rd (off : Nat) : Input := .bus { kind := .read, width := .bits32, addr := 0x20 + off }

/-- A field of the state an outcome answers. -/
def field {α : Type} (f : State → α) (o : Outcome) : Option α :=
  match o with
  | .next t => some (f t)
  | .fault _ => none
  | .refused _ => none

/-- RES_HI, RES_LO, DZ and INF after a completion. -/
def results (o : Outcome) : Option (Word × Word × Bool × Bool) :=
  field (fun t => (t.resHi, t.resLo, t.dz, t.inf)) o

/-! ### Well-formedness: each check refuses an ill-formed term -/

theorem test_rsvClear_refuses_rsv : rsvClear 0x00000012 = false := by decide
theorem test_opAssigned_refuses_zero : opAssigned 0x00000000 = false := by decide
theorem test_opAssigned_refuses_nine : opAssigned 0x00000009 = false := by decide
theorem test_legalWord_refuses_rsv : legalWord 0x00000010 = false := by decide
theorem test_line_refuses_do1_mulw : (Line.do1 .mulw (.imm 0)).wf = false := by decide
theorem test_line_refuses_do2_clz : (Line.do2 .clz (.imm 0) (.imm 0)).wf = false := by decide
theorem test_line_refuses_do3_mul : (Line.do3 .mul (.imm 0) (.imm 0) (.imm 0)).wf = false := by decide
theorem test_stmt_refuses_branch_past_end : (Stmt.bs 0 0 2).targetBelow 2 = false := by decide
theorem test_program_refuses_branch_past_end : Program.wf [.bc 0 0 2, .halt] = false := by decide
theorem test_assemble_refuses_unknown_label : assemble [{ line := .stmt (.bs 0 0 7) }] = none := by decide
theorem test_assemble_refuses_label_twice :
    assemble [{ label := some 1, line := .wait }, { label := some 1, line := .wait }] = none := by decide
theorem test_assemble_refuses_ill_formed_line : assemble [{ line := .do1 .mul (.imm 0) }] = none := by decide

/-! ### Decoding: the words of 30_encoding.md section 2, RSV in bits 31:4 and OP in bits 3:0 -/

theorem test_decode_clz : decode 0b0000000000000000000000000000_0001 = .command .clz := by decide
theorem test_decode_mulw : decode 0b0000000000000000000000000000_0010 = .command .mulw := by decide
theorem test_decode_mul : decode 0b0000000000000000000000000000_0011 = .command .mul := by decide
theorem test_decode_udiv : decode 0b0000000000000000000000000000_0100 = .command .udiv := by decide
theorem test_decode_umod : decode 0b0000000000000000000000000000_0101 = .command .umod := by decide
theorem test_decode_sll64 : decode 0b0000000000000000000000000000_0110 = .command .sll64 := by decide
theorem test_decode_srl64 : decode 0b0000000000000000000000000000_0111 = .command .srl64 := by decide
theorem test_decode_rsqrt : decode 0b0000000000000000000000000000_1000 = .command .rsqrt := by decide
theorem test_decode_rsv : decode 0b1000000000000000000000000000_0001 = .reserved .rsvNonzero := by decide
theorem test_decodeTableWord_rsqrt : decodeTableWord 32 8 = some .rsqrt := by decide
theorem test_decodeTableWord_refuses_other_lengths : decodeTableWord 8 1 = none ∧ decodeTableWord 64 1 = none := by
  decide
theorem test_decodeTableWord_reserved : decodeTableWord 32 9 = none := by decide
theorem test_name_alias : commandNamed "shift_left_64" = some .sll64 := by decide

/-! ### The commands: V1 to V5 of 95_test_vectors.md -/

theorem test_clz_zero : results (exec .clz (inFlight .clz 0 9 9)) = some (0, 32, false, false) := by decide
theorem test_clz_12345678 : results (exec .clz (inFlight .clz 0x12345678 9 9)) = some (0, 3, false, false) := by
  decide
theorem test_mulw_largest : results (exec .mulw (inFlight .mulw 0xFFFFFFFF 0xFFFFFFFF 9)) =
    some (0xFFFFFFFE, 0x00000001, false, false) := by decide
theorem test_mulw_mixed : results (exec .mulw (inFlight .mulw 0x12345678 0x9ABCDEF0 9)) =
    some (0x0B00EA4E, 0x242D2080, false, false) := by decide
theorem test_mul_mixed : results (exec .mul (inFlight .mul 0x12345678 0x9ABCDEF0 9)) =
    some (0, 0x242D2080, false, false) := by decide
theorem test_udiv_by_zero : results (exec .udiv (inFlight .udiv 7 0 9)) = some (0, 0, true, false) := by decide
theorem test_udiv_1000 : results (exec .udiv (inFlight .udiv 0x075BCD15 0x3E8 9)) =
    some (0, 0x0001E240, false, false) := by decide
theorem test_umod_by_zero : results (exec .umod (inFlight .umod 7 0 9)) = some (0, 0, true, false) := by decide
theorem test_umod_high : results (exec .umod (inFlight .umod 0xFFFFFFFF 0x80000001 9)) =
    some (0, 0x7FFFFFFE, false, false) := by decide
theorem test_sll64_31 : results (exec .sll64 (inFlight .sll64 0x89ABCDEF 0x01234567 0x1F)) =
    some (0xC4D5E6F7, 0x80000000, false, false) := by decide
theorem test_sll64_unmasked : results (exec .sll64 (inFlight .sll64 0x89ABCDEF 0x01234567 0x41)) =
    some (0, 0, false, false) := by decide
theorem test_srl64_1 : results (exec .srl64 (inFlight .srl64 0x89ABCDEF 0x01234567 1)) =
    some (0x0091A2B3, 0xC4D5E6F7, false, false) := by decide
theorem test_srl64_logical : results (exec .srl64 (inFlight .srl64 0 0x80000001 0x1F)) =
    some (1, 2, false, false) := by decide
theorem test_rsqrt_zero : results (exec .rsqrt (inFlight .rsqrt 0 9 9)) = some (0, 0xFFFFFFFF, false, true) := by
  decide
theorem test_rsqrt_100 : results (exec .rsqrt (inFlight .rsqrt 100 9 9)) = some (0, 6553, false, false) := by
  decide

/-! ### The command cycle and the bus: V0 of 95_test_vectors.md -/

theorem test_fetched_word_runs_first :
    field (fun t => (t.resLo, t.pend)) (step (State.reset.withFetchWord 32 1)) = some (32, none) := by decide
theorem test_x1_reserved_word : field State.statusWord (step (idle [wr 0x0C 0])) = some 0x00000008 := by decide
theorem test_x5_accepted : field (fun t => (t.pend, t.statusWord)) (step (idle [wr 0x0C 2])) =
    some (some { op := .mulw, a := 5, b := 3, c := 4 }, 0x00000001) := by decide
theorem test_x7_busy_before_decode : field State.statusWord (step (inFlight .mulw 5 3 0 [wr 0x0C 0])) =
    some 0x00000011 := by decide
theorem test_x8_latched : field (fun t => (t.a, t.resLo)) (runSteps 2 (inFlight .mulw 5 3 0 [wr 0x00 7])) =
    some (7, 15) := by decide
theorem test_x10_clears_ill_only :
    field State.statusWord (step { idle [wr 0x18 0x00000008] with ill := true, coll := true }) =
      some 0x00000010 := by decide
theorem test_x11_busy_and_dz_ignore_writes :
    field State.statusWord
      (step { inFlight .mulw 5 3 0 [wr 0x18 0xFFFFFFFF] with dz := true, ill := true, coll := true }) =
      some 0x00000003 := by decide
theorem test_x14_cmd_reads_zero : field (fun t => t.trace) (step (idle [rd 0x0C])) = some [.read .cmd 0] := by
  decide
theorem test_x15_result_write_ignored : field State.resLo (step (idle [wr 0x10 0x12345678])) = some 0 := by decide
theorem test_x16_reset_while_busy :
    field (fun t => (t.pend, t.a, t.resLo)) (runSteps 3 (inFlight .mulw 5 3 0 [.resetAssert, .resetRelease])) =
      some (none, 0, 0) := by decide
theorem test_x17_byte_write_faults :
    step (idle [.bus { kind := .write 1, width := .bits8, addr := 0x2C }]) = .fault .badAccess := rfl
theorem test_x17_misaligned_read_faults :
    step (idle [.bus { kind := .read, width := .bits32, addr := 0x22 }]) = .fault .badAccess := rfl
theorem test_window_fetch_refused :
    step (idle [.bus { kind := .fetch, width := .bits32, addr := 0x20 }]) = .refused .instructionFetch := rfl
theorem test_outside_next_byte : field State.inputs (step (idle [wr 0x20 1])) = some [] := by decide
theorem test_reads_zero_in_reset :
    field (fun t => t.trace) (step { idle [rd 0x00] with resetAsserted := true }) = some [.read .a 0] := by decide
theorem test_unwritten_variable_faults :
    step ((idle []).load [.wr .a (.var 0)]) = .fault .unwrittenVariable := rfl
theorem test_script_past_end_faults : step ((idle []).load []) = .fault .noStatement := rfl
theorem test_wait_loops_while_busy :
    (assemble [{ label := some 1, line := .wait }, { line := .stmt (.bc 7 0 1) }, { line := .stmt .halt }]) =
      some [.rd 7 .status, .bs 7 0 0, .bc 7 0 0, .halt] := by decide

/-! ### Witnesses: states and operands that meet the hypotheses of each statement -/

theorem witness_WordIsLegal_boundaries :
    ((0x1 : Word).extractLsb' 4 28 = 0 ∧ 1 ≤ ((0x1 : Word).extractLsb' 0 4).toNat ∧
      ((0x1 : Word).extractLsb' 0 4).toNat ≤ 8) ∧
    ((0x8 : Word).extractLsb' 4 28 = 0 ∧ 1 ≤ ((0x8 : Word).extractLsb' 0 4).toNat ∧
      ((0x8 : Word).extractLsb' 0 4).toNat ≤ 8) ∧
    ¬((0x9 : Word).extractLsb' 4 28 = 0 ∧ 1 ≤ ((0x9 : Word).extractLsb' 0 4).toNat ∧
      ((0x9 : Word).extractLsb' 0 4).toNat ≤ 8) := by decide
theorem witness_DecodeAndEncodeAgree :
    decode 0x8 = .command .rsqrt ∧ decodeTableWord 32 (encode .rsqrt).toNat = some .rsqrt := by decide
theorem witness_Clz_zero : (inFlight .clz 0 1 2).pend = some { op := .clz, a := 0, b := 1, c := 2 } := rfl
theorem witness_Clz_top_and_bottom_bit :
    (inFlight .clz 0x80000001 1 2).pend = some { op := .clz, a := 0x80000001, b := 1, c := 2 } ∧
    (0x80000001 : Word).getLsbD 31 = true ∧
    (∀ i : Fin 32, 0 < i.val → (1 : Word).getLsbD i.val = false) ∧ (1 : Word).getLsbD 0 = true := by decide
theorem witness_Mulw : (inFlight .mulw 6 7 2).pend = some { op := .mulw, a := 6, b := 7, c := 2 } := rfl
theorem witness_Mul : (inFlight .mul 6 7 2).pend = some { op := .mul, a := 6, b := 7, c := 2 } := rfl
theorem witness_Udiv : (inFlight .udiv 6 0 2).pend = some { op := .udiv, a := 6, b := 0, c := 2 } ∧
    (inFlight .udiv 6 1 2).pend = some { op := .udiv, a := 6, b := 1, c := 2 } ∧ (1 : Word) ≠ 0 := by decide
theorem witness_Umod : (inFlight .umod 6 0 2).pend = some { op := .umod, a := 6, b := 0, c := 2 } ∧
    (inFlight .umod 6 1 2).pend = some { op := .umod, a := 6, b := 1, c := 2 } ∧ (1 : Word) ≠ 0 := by decide
theorem witness_Sll64 : (inFlight .sll64 6 7 63).pend = some { op := .sll64, a := 6, b := 7, c := 63 } ∧
    (63 : Word).toNat < 64 ∧ (inFlight .sll64 6 7 64).pend = some { op := .sll64, a := 6, b := 7, c := 64 } ∧
    64 ≤ (64 : Word).toNat := by decide
theorem witness_Srl64 : (inFlight .srl64 6 7 63).pend = some { op := .srl64, a := 6, b := 7, c := 63 } ∧
    (63 : Word).toNat < 64 ∧ (inFlight .srl64 6 7 64).pend = some { op := .srl64, a := 6, b := 7, c := 64 } ∧
    64 ≤ (64 : Word).toNat := by decide
theorem witness_Rsqrt_special : (inFlight .rsqrt 0 1 2).pend = some { op := .rsqrt, a := 0, b := 1, c := 2 } ∧
    (inFlight .rsqrt 1 1 2).pend = some { op := .rsqrt, a := 1, b := 1, c := 2 } := by decide

/-- The general clause at x = 3 (exponent 1, interpolated: delta 13573, estimate 39555 in V5) and at
x = 0x80000000 (exponent 31, a power of two). -/
theorem witness_Rsqrt_general :
    ((inFlight .rsqrt 3 1 2).pend = some { op := .rsqrt, a := 3, b := 1, c := 2 } ∧ 2 ≤ (3 : Word).toNat ∧
      2 ^ 1 ≤ (3 : Word).toNat ∧ (3 : Word).toNat < 2 ^ 2 ∧
      13573 = (Config.rsqrtTable[1].toNat + (2 ^ 32 - Config.rsqrtTable[2].toNat)) % 2 ^ 32 ∧
      39555 = (Config.rsqrtTable[1].toNat +
        (2 ^ 32 - 13573 * (((3 : Word).toNat - 2 ^ 1) * 2 ^ 16 / 2 ^ 1) / 2 ^ 16 % 2 ^ 32)) % 2 ^ 32) ∧
    ((inFlight .rsqrt 0x80000000 1 2).pend = some { op := .rsqrt, a := 0x80000000, b := 1, c := 2 } ∧
      2 ^ 31 ≤ (0x80000000 : Word).toNat ∧ (0x80000000 : Word).toNat < 2 ^ 32 ∧
      (0x80000000 : Word).toNat = 2 ^ 31 ∧ Config.rsqrtTable[31].toNat = 1) := by decide
theorem witness_ExecIsTotal :
    (inFlight .udiv 6 7 2).pend = some { op := .udiv, a := 6, b := 7, c := 2 } ∧
    ({ inFlight .udiv 6 7 2 with ill := true, resLo := 9 } : State).pend =
      some { op := .udiv, a := 6, b := 7, c := 2 } := by decide
theorem witness_CompletionChanges : ∃ t, exec .srl64 (inFlight .srl64 6 7 2) = .next t := ⟨_, rfl⟩
theorem witness_MultiplyLaws_power : (BitVec.ofNat 32 (2 ^ 31) : Word) = 0x80000000 := by decide
theorem witness_ShiftLaws :
    1 ≤ (1 : Word).toNat ∧ (63 : Word).toNat ≤ 63 ∧
    (0xFFFFFFFE : Word).toNat + (1 : Word).toNat < 2 ^ 32 := by decide
theorem witness_WordShift : (31 : Word).toNat < 32 := by decide
theorem witness_DivideRestoring : (0xFFFFFFFF : Word) ≠ 0 := by decide
theorem witness_RsqrtSpecialCases : 2 ≤ (2 : Word).toNat := by decide
theorem witness_Fraction :
    (2 ^ 31 ≤ (0xFFFFFFFF : Word).toNat ∧ (0xFFFFFFFF : Word).toNat < 2 ^ 32) ∧
    (2 ^ 0 ≤ (1 : Word).toNat ∧ (1 : Word).toNat < 2 ^ 1 ∧ (1 : Word).toNat = 2 ^ 0) := by decide
theorem witness_Estimate :
    (2 ≤ (2 : Word).toNat ∧ 2 ^ 1 ≤ (2 : Word).toNat ∧ (2 : Word).toNat < 2 ^ 2) ∧
    (2 ^ 31 ≤ (0x80000000 : Word).toNat ∧ (0x80000000 : Word).toNat < 2 ^ 32) := by decide
theorem witness_NonIncreasing :
    (∀ i j : Fin 32, 1 ≤ i.val → i ≤ j → Config.rsqrtTable[j] ≤ Config.rsqrtTable[i]) ∧
    2 ≤ (2 : Word).toNat ∧ (2 : Word) ≤ 3 := by decide
theorem witness_NewtonTruncations : 2 ≤ (3 : Word).toNat ∧ rsqrtEstimate Config.rsqrtTable 3 = 39555 ∧
    newton 3 39555 = 37718 := by decide
theorem witness_RsqrtRange : (inFlight .rsqrt 2 1 2).table = Config.rsqrtTable ∧
    (inFlight .rsqrt 2 1 2).pend = some { op := .rsqrt, a := 2, b := 1, c := 2 } := ⟨rfl, rfl⟩

theorem witness_CommandRequest_drops : (inFlight .mulw 5 3 0 [wr 0x0C 0]).resetAsserted = false ∧
    (inFlight .mulw 5 3 0 [wr 0x0C 0]).NextIsWrite 0x0C 0 [] ∧
    (inFlight .mulw 5 3 0 [wr 0x0C 0]).pend = some { op := .mulw, a := 5, b := 3, c := 0 } := ⟨rfl, rfl, rfl⟩
theorem witness_CommandRequest_accepts : (idle [wr 0x0C 8]).NextIsWrite 0x0C 8 [] ∧
    (idle [wr 0x0C 8]).pend = none ∧ decode 8 = .command .rsqrt := ⟨rfl, rfl, rfl⟩
theorem witness_CommandRequest_rejects : (idle [wr 0x0C 9]).NextIsWrite 0x0C 9 [] ∧
    (idle [wr 0x0C 9]).pend = none ∧ decode 9 = .reserved .opUnassigned := ⟨rfl, rfl, rfl⟩
theorem witness_LatchedOperands :
    (inFlight .mulw 5 3 0 [wr 0x08 7]).pend = some { op := .mulw, a := 5, b := 3, c := 0 } ∧
    (inFlight .mulw 5 3 0 [wr 0x08 7]).NextIsWrite Reg.c.off 7 [] := ⟨rfl, rfl⟩
theorem witness_CleanCommandWrite : (idle [wr 0x0C 8]).errorFree = true ∧ (idle [wr 0x0C 8]).resetAsserted = false ∧
    (idle [wr 0x0C 8]).NextIsWrite 0x0C 8 [] ∧
    field State.errorFree (step (idle [wr 0x0C 8])) = some true := ⟨rfl, rfl, rfl, rfl⟩
theorem witness_Read : (idle [rd 0x1C]).NextIsRead Reg.rsvd.off [] ∧ (idle [rd 0x00]).NextIsRead Reg.a.off [] ∧
    (idle [rd 0x18]).NextIsRead Reg.status.off [] ∧ (idle [rd 0x18]).resetAsserted = false :=
  ⟨rfl, rfl, rfl, rfl⟩
theorem witness_OperandWrite : (idle [wr 0x00 9]).NextIsWrite 0x00 9 [] ∧ (idle [wr 0x04 9]).NextIsWrite 0x04 9 [] ∧
    (idle [wr 0x08 9]).NextIsWrite 0x08 9 [] ∧ (idle [wr 0x08 9]).resetAsserted = false := ⟨rfl, rfl, rfl, rfl⟩
theorem witness_Status : (idle [wr 0x18 0x18]).NextIsWrite 0x18 0x18 [] ∧ (idle [rd 0x18]).NextIsRead 0x18 [] :=
  ⟨rfl, rfl⟩
theorem witness_ReservedSlots : (idle [wr 0x1C 1]).NextIsWrite 0x1C 1 [] ∧ (idle [rd 0x1C]).NextIsRead 0x1C [] ∧
    (idle [wr 0x10 1]).NextIsWrite 0x10 1 [] ∧ (idle [wr 0x14 1]).NextIsWrite 0x14 1 [] := ⟨rfl, rfl, rfl, rfl⟩

/-- The window is [0x20, 0x40): a byte access at its last byte, a misaligned word at its second, an aligned word at
its last slot. -/
theorem witness_OnlyAlignedWords : (idle []).base = 0x20 ∧
    ((idle []).base ≤ 0x3F ∧ 0x3F < (idle []).base + 0x20 ∧ Width.bits8 ≠ .bits32) ∧
    ((idle []).base ≤ 0x21 ∧ (0x21 - (idle []).base) % 4 ≠ 0) ∧
    ((idle []).base ≤ 0x3C ∧ 0x3C < (idle []).base + 0x20 ∧ (0x3C - (idle []).base) % 4 = 0) ∧
    AccessKind.read ≠ .fetch := by decide

/-- The word that ends just below the window, the word just above it, and the last slot. -/
theorem witness_Outside : 0x1C + Width.bits32.bytes ≤ (idle []).base ∧ (idle []).base + 0x20 ≤ 0x40 ∧
    (7 : Nat) < 8 ∧ 0x3C = (idle []).base + 4 * 7 := by decide

/-- A fetch at the window's last byte, and a word that begins two bytes below it. -/
theorem witness_FetchAndStraddle :
    ((idle []).base < 0x3F + Width.bits8.bytes ∧ 0x3F < (idle []).base + 0x20) ∧
    ((idle []).base < 0x1E + Width.bits32.bytes ∧ 0x1E < (idle []).base + 0x20 ∧ 0x1E < (idle []).base) := by
  decide
theorem witness_Reset : (inFlight .mulw 5 3 0 [.resetAssert]).inputs = [.resetAssert] ∧
    (idle [.resetRelease]).inputs = [.resetRelease] ∧
    ({ idle [wr 0x1C 7] with resetAsserted := true } : State).NextIsWrite Reg.rsvd.off 7 [] ∧
    ({ idle [rd 0x00] with resetAsserted := true } : State).NextIsRead Reg.a.off [] := ⟨rfl, rfl, rfl, rfl⟩
theorem witness_StepRuns : (inFlight .clz 1 2 3 [.complete]).pend = some { op := .clz, a := 1, b := 2, c := 3 } ∧
    (inFlight .clz 1 2 3 [.complete]).inputs = [.complete] ∧ (inFlight .clz 1 2 3).inputs = [] ∧
    (idle [.complete]).pend = none ∧ decode 1 = .command .clz := ⟨rfl, rfl, rfl, rfl, rfl⟩
theorem witness_AcceptThenComplete : (idle [wr 0x0C 2, .complete]).resetAsserted = false ∧
    (idle [wr 0x0C 2, .complete]).pend = none ∧ decode 2 = .command .mulw ∧
    (idle [wr 0x0C 2, .complete]).NextIsWrite 0x0C 2 [.complete] := ⟨rfl, rfl, rfl, rfl⟩
theorem witness_EveryStepKeepsInvariant :
    (inFlight .udiv 1 0 0).Inv ∧ ∃ t, step (inFlight .udiv 1 0 0) = .next t :=
  ⟨⟨⟨nofun, nofun, nofun⟩, nofun⟩, _, rfl⟩
theorem witness_Writers : (∃ t, step (idle [wr 0x0C 2]) = .next t) ∧ ¬(idle [wr 0x0C 2]).Resetting ∧
    (idle [.resetAssert]).Resetting := ⟨⟨_, rfl⟩, (by rintro (h | h) <;> cases h), .inl rfl⟩
theorem witness_InFlightStays : (inFlight .mulw 5 3 0 [rd 0x10]).pend = some { op := .mulw, a := 5, b := 3, c := 0 } ∧
    Input.resetAssert ∉ (inFlight .mulw 5 3 0 [rd 0x10]).inputs ∧
    Input.resetRelease ∉ (inFlight .mulw 5 3 0 [rd 0x10]).inputs ∧
    ∃ t, runSteps 2 (inFlight .mulw 5 3 0 [rd 0x10]) = .next t := ⟨rfl, by decide, by decide, _, rfl⟩
theorem witness_InFlightLeaves : (inFlight .mulw 5 3 0 [rd 0x10]).pend =
    some { op := .mulw, a := 5, b := 3, c := 0 } := rfl
theorem witness_RunEnds : (inFlight .mulw 5 3 0).host.halted = true ∧
    (inFlight .mulw 5 3 0).pend = some { op := .mulw, a := 5, b := 3, c := 0 } ∧
    (inFlight .mulw 5 3 0).inputs = [] := ⟨rfl, rfl, rfl⟩

/-- A host at its first statement, which is to run next; its variable 0 holds 9 and the others hold nothing. -/
def scripted (st : Stmt Nat) : State :=
  State.setVar 0 9 (State.load [st, .halt] (idle [.host]))

theorem witness_ScriptStatements (st : Stmt Nat) : (scripted st).inputs = [.host] ∧
    (scripted st).host.halted = false ∧ (scripted st).host.program[(scripted st).host.hpc]? = some st ∧
    (scripted st).host.vars[(0 : Var)] = some 9 ∧ (scripted st).host.vars[(7 : Var)] = none :=
  ⟨rfl, rfl, rfl, rfl, rfl⟩
theorem witness_Assembled : ∃ p, assemble [{ line := .wait }, { line := .stmt .halt }] = some p := ⟨_, rfl⟩

end Sys2Proof.Tests
end

section
/-! The statements about the state of CORE (10_state.md): what a bus access does out of reset, the fields of the
STATUS word, and the reset state. -/

namespace Sys2Proof.Machine

/-! ### Bus accesses out of reset -/

/-- Out of reset a bus read returns the register's value, and only the schedule and the trace change (R50). -/
theorem step_read_out_of_reset {s : State} {r : Reg} {rest : List Input} (hs : s.resetAsserted = false)
    (h : s.NextIsRead r.off rest) :
    step s = .next { s with inputs := rest, trace := .read r (s.readReg r) :: s.trace } := by
  have hv : State.busRead r { s with inputs := rest } = s.readReg r := by
    simp only [State.busRead, hs]
    cases r <;> rfl
  rw [step_read h, State.hostRead, hv]
  rfl

/-- Out of reset a bus write is the register write and a trace entry. -/
theorem step_write_out_of_reset {s : State} {r : Reg} {v : Word} {rest : List Input}
    (hs : s.resetAsserted = false) (h : s.NextIsWrite r.off v rest) :
    step s = .next ((State.writeReg r v { s with inputs := rest }).record (.write r v)) := by
  rw [step_write h, hostWrite_out_of_reset (s := { s with inputs := rest }) hs]

/-! ### The STATUS word -/

/-- STATUS is put together from its fields one bit at a time, BUSY last and so in bit 0. -/
theorem statusWord_eq_concat (s : State) :
    s.statusWord = (((((0#27).concat s.coll).concat s.ill).concat s.inf).concat s.dz).concat s.busy := rfl

/-- The bits of STATUS: BUSY, DZ, INF, ILL and COLL from bit 0 up, and 0 above (R27). -/
theorem statusWord_getLsbD (s : State) (i : Nat) :
    s.statusWord.getLsbD i = [s.busy, s.dz, s.inf, s.ill, s.coll].getD i false := by
  rw [statusWord_eq_concat]
  match i with
  | 0 => exact BitVec.getLsbD_concat_zero
  | 1 | 2 | 3 | 4 => simp only [BitVec.getLsbD_concat_succ, BitVec.getLsbD_concat_zero]; rfl
  | k + 5 => simp only [BitVec.getLsbD_concat_succ, BitVec.getLsbD_zero]; rfl

/-- Write-1-to-clear as a choice: ILL and COLL stay where their bit of the word is 0 (R33). -/
theorem clearFlags_eq_ite (w : Word) (s : State) :
    s.clearFlags w =
      { s with ill := if w.getLsbD 3 then false else s.ill, coll := if w.getLsbD 4 then false else s.coll } := by
  simp only [State.clearFlags, Bool.if_false_left, Bool.decide_eq_true, Bool.and_comm]

/-- Settles O37: a write to STATUS is `clearFlags`, a read returns `statusWord`, and each bit of that word is a
field. -/
theorem statusClearsByOnesAndReadsItsFields : Obligations.StatusClearsByOnesAndReadsItsFields := by
  intro s w rest hs
  refine ⟨busy_eq_true, fun hw => ?write, fun hr => ?read⟩
  case write =>
    rw [step_write_out_of_reset (r := .status) hs hw, State.writeReg, clearFlags_eq_ite]
    rfl
  case read =>
    have bit := statusWord_getLsbD s
    refine ⟨s.statusWord, step_read_out_of_reset (r := .status) hs hr, bit 0, bit 1, bit 2, bit 3, bit 4,
      fun i hi => ?_⟩
    rw [bit i]
    exact List.getD_eq_default _ _ hi

/-! ### The reset state -/

/-- STATUS reads 0 where PEND is empty and every flag is clear. -/
theorem statusWord_eq_zero {s : State} (hp : s.pend = none) (hdz : s.dz = false) (hinf : s.inf = false)
    (hill : s.ill = false) (hcoll : s.coll = false) : s.statusWord = 0 := by
  simp only [State.statusWord, busy_eq_false.mpr hp, hdz, hinf, hill, hcoll]
  rfl

/-- A CORE at its reset values reads 0 in every slot, whatever TABLE, BASE and the host are (R40). -/
theorem busRead_of_atReset {s : State} (h : s.AtReset) (r : Reg) : s.busRead r = 0 := by
  obtain ⟨ha, hb, hc, hlo, hhi, hdz, hinf, hill, hcoll, hp⟩ := h
  have hread : s.readReg r = 0 := by
    cases r with
    | a => exact ha
    | b => exact hb
    | c => exact hc
    | resLo => exact hlo
    | resHi => exact hhi
    | status => exact statusWord_eq_zero hp hdz hinf hill hcoll
    | cmd => rfl
    | rsvd => rfl
  simp [State.busRead, hread]

/-- The state after reset has CORE at its reset values (R20, R132). -/
theorem reset_atReset : State.reset.AtReset := ⟨rfl, rfl, rfl, rfl, rfl, rfl, rfl, rfl, rfl, rfl⟩

/-- Settles O42: the reset state is at the reset values, and there every slot reads 0. -/
theorem resetLeavesEveryRegisterZero : Obligations.ResetLeavesEveryRegisterZero := by
  obtain ⟨ha, hb, hc, hlo, hhi, hdz, hinf, hill, hcoll, hp⟩ := reset_atReset
  refine ⟨ha, hb, hc, hlo, hhi, statusWord_eq_zero hp hdz hinf hill hcoll, busy_eq_false.mpr hp, hp, ?_,
    busRead_of_atReset reset_atReset⟩
  simp [State.errorFree, hill, hcoll]

end Sys2Proof.Machine
end

section
/-! The statements about the register window (20_memory.md): which slot an address selects, and the slots that ignore
writes. -/

namespace Sys2Proof.Machine

/-! ### Address decoding -/

/-- BASE is a multiple of the window's size (R43). -/
theorem windowBytes_dvd_base (s : State) : Config.windowBytes ∣ s.base := ⟨s.baseIndex, rfl⟩

/-- Settles O34: BASE is a multiple of the window's size, and BASE + `r.off` selects `r` for each of the eight
registers. -/
theorem windowAddressSelectsRegister : Obligations.WindowAddressSelectsRegister := fun s =>
  ⟨Nat.mod_eq_zero_of_dvd (windowBytes_dvd_base s), target_off s .a, target_off s .b, target_off s .c,
    target_off s .cmd, target_off s .resLo, target_off s .resHi, target_off s .status, target_off s .rsvd⟩

/-! ### Accesses that have no effect -/

/-- A host write of a register whose own write does nothing is only recorded, in reset or out of it. -/
theorem hostWrite_of_writeReg_eq {r : Reg} {v : Word} {s : State} (h : s.writeReg r v = s) :
    s.hostWrite r v = s.record (.write r v) := by
  rw [State.hostWrite, h, ite_self]

/-- A bus write to a register that ignores writes changes only the schedule and the trace, in reset or out of it. -/
theorem step_write_ignored {s : State} {r : Reg} {v : Word} {rest : List Input}
    (hr : ∀ t : State, t.writeReg r v = t) (h : s.NextIsWrite r.off v rest) :
    step s = .next { s with inputs := rest, trace := .write r v :: s.trace } := by
  rw [step_write h, hostWrite_of_writeReg_eq (hr _)]
  rfl

/-- The reserved slot reads 0, in reset or out of it (R46, R132). -/
@[simp] theorem busRead_rsvd (s : State) : s.busRead .rsvd = 0 := ite_self _

/-- Settles O38: `writeReg` leaves the state as it is at the reserved slot, RES_LO and RES_HI, and the reserved slot
reads 0. -/
theorem reservedAndResultSlotsIgnoreWrites : Obligations.ReservedAndResultSlotsIgnoreWrites := by
  intro s v rest
  refine ⟨step_write_ignored (r := .rsvd) fun _ => rfl, fun hr => ?read,
    step_write_ignored (r := .resLo) fun _ => rfl, step_write_ignored (r := .resHi) fun _ => rfl⟩
  case read =>
    rw [step_read (r := .rsvd) hr, State.hostRead, busRead_rsvd]
    rfl

end Sys2Proof.Machine
end

section
/-! The statements about the encoding (30_encoding.md): which words the decoder takes for commands. -/

namespace Sys2Proof

/-- `commandOf` and `opcode` read the table of R60 in opposite directions. -/
theorem commandOf_eq_some_iff {op : BitVec 4} {i : Instr} : commandOf op = some i ↔ opcode i = op := by
  revert op
  cases i <;> decide

/-- The codes of R60 are 1 to 8. -/
theorem isSome_commandOf_iff : ∀ {op : BitVec 4}, (commandOf op).isSome ↔ 1 ≤ op.toNat ∧ op.toNat ≤ 8 := by
  decide

/-- The decoder answers a command exactly where RSV is 0 and OP is that command's code; the separate check for
OP = 0 only names the reason, since no command has code 0 (R59, R61). -/
theorem decode_eq_command_iff {w : Word} {i : Instr} :
    decode w = .command i ↔ rsvField w = 0 ∧ opcode i = opField w := by
  rw [← commandOf_eq_some_iff, decode]
  split_ifs with hrsv hop
  · exact iff_of_false nofun fun ⟨hzero, _⟩ => hrsv hzero
  · have hnone : commandOf 0 = none := rfl
    rw [hop, hnone]
    exact iff_of_false nofun nofun
  · rw [and_iff_right (not_not.mp hrsv)]
    cases commandOf (opField w) <;> simp

/-- Settles O2: an OP of 1 to 8 is the code of some command, and a word decoded to a command has such an OP. -/
theorem wordIsLegalExactlyWhenRsvZeroAndOpAssigned : Obligations.WordIsLegalExactlyWhenRsvZeroAndOpAssigned := by
  refine fun w => ⟨fun ⟨hrsv, hop⟩ => ?legal, fun hillegal => ?reserved⟩
  case legal =>
    obtain ⟨i, hi⟩ := Option.isSome_iff_exists.mp (isSome_commandOf_iff.mpr hop)
    have hcode := commandOf_eq_some_iff.mp hi
    exact ⟨i, decode_eq_command_iff.mpr ⟨hrsv, hcode⟩, hcode⟩
  case reserved =>
    cases hd : decode w with
    | reserved why => exact ⟨why, rfl⟩
    | command i =>
      obtain ⟨hrsv, hcode⟩ := decode_eq_command_iff.mp hd
      have hi := commandOf_eq_some_iff.mpr hcode
      exact absurd ⟨hrsv, isSome_commandOf_iff.mp (Option.isSome_of_mem hi)⟩ hillegal

end Sys2Proof
end

section
/-! The statements about the command cycle (40_command_cycle.md): what a completion depends on, what a write to CMD
does, and what a write to an operand register leaves of the command in flight. -/

namespace Sys2Proof.Machine

/-! ### Completion -/

/-- Settles O12: in both states `exec` retires `resultOf` of the one latched command under the one TABLE. -/
theorem execIsTotalFunctionOfLatchedCommand : Obligations.ExecIsTotalFunctionOfLatchedCommand := by
  intro s s' p hp hp' htable
  have hexec' : exec p.op s' = .next (s'.retire (resultOf s.table p.op p.a p.b p.c)) :=
    htable ▸ exec_inFlight hp'
  refine ⟨_, _, _, _, exec_inFlight hp, hexec', ?dz, ?inf⟩
  case dz => simp [resultOf_dz]
  case inf => simp [resultOf_inf]

/-! ### Command requests -/

/-- A request while a command is in flight is dropped, whatever its word (R72). -/
theorem commandRequest_of_inFlight {s : State} {w : Word} {p : Pending} (hp : s.pend = some p) :
    s.commandRequest w = s.collide :=
  if_pos (busy_eq_true.mpr ⟨p, hp⟩)

/-- A legal word is accepted while CORE is idle (R72). -/
theorem commandRequest_of_command {s : State} {w : Word} {i : Instr} (hp : s.pend = none)
    (hd : decode w = .command i) : s.commandRequest w = s.accept i := by
  simp [State.commandRequest, busy_eq_false.mpr hp, hd]

/-- A reserved word is rejected while CORE is idle (R73). -/
theorem commandRequest_of_reserved {s : State} {w : Word} {why : ReservedWord} (hp : s.pend = none)
    (hd : decode w = .reserved why) : s.commandRequest w = s.reject := by
  simp [State.commandRequest, busy_eq_false.mpr hp, hd]

/-- Out of reset a bus write to CMD is the command request and a trace entry (R71). -/
theorem step_commandRequest {s t : State} {w : Word} {rest : List Input} (hs : s.resetAsserted = false)
    (hw : s.NextIsWrite 0x0C w rest) (hreq : State.commandRequest w { s with inputs := rest } = t) :
    step s = .next (t.record (.write .cmd w)) :=
  hreq ▸ step_write_out_of_reset (r := .cmd) hs hw

/-- Settles O31: the command request collides, accepts or rejects; a collision leaves PEND and TABLE, all that the
completion depends on. -/
theorem commandRequestAcceptsDropsOrRejects : Obligations.CommandRequestAcceptsDropsOrRejects := by
  intro s w rest hs hw
  refine ⟨fun p hp => ?drops, fun i hp hd => ?accepts, fun why hp hd => ?rejects⟩
  case drops =>
    have hstep := step_commandRequest hs hw (commandRequest_of_inFlight hp)
    obtain ⟨lo, hi, dz, inf, hexec, hexec', _, _⟩ := execIsTotalFunctionOfLatchedCommand s
      { s with coll := true, inputs := rest, trace := .write .cmd w :: s.trace } p hp hp rfl
    exact ⟨_, lo, hi, dz, inf, hstep, rfl, hexec, hexec'⟩
  case accepts =>
    rw [step_commandRequest hs hw (commandRequest_of_command hp hd)]
    rfl
  case rejects =>
    rw [step_commandRequest hs hw (commandRequest_of_reserved hp hd)]
    rfl

/-! ### Operand writes while a command is in flight -/

/-- A write to an operand register changes that register only, busy or not (R21, R22, R23). -/
theorem writeReg_operand {r : Reg} (hr : r = .a ∨ r = .b ∨ r = .c) (v : Word) (s : State) :
    s.writeReg r v =
      { s with
        a := if r = .a then v else s.a, b := if r = .b then v else s.b, c := if r = .c then v else s.c } := by
  obtain rfl | rfl | rfl := hr <;> rfl

/-- Settles O32: the write leaves PEND and TABLE, and `exec` retires the result of what PEND latched. -/
theorem inFlightCommandUsesLatchedOperands : Obligations.InFlightCommandUsesLatchedOperands := by
  intro s p v rest hp hs
  refine ⟨_, _, _, _, exec_inFlight hp, fun r hr hw => ?_⟩
  have hstep := step_write_out_of_reset hs hw
  rw [writeReg_operand hr] at hstep
  exact ⟨_, hstep, rfl, exec_inFlight hp⟩

end Sys2Proof.Machine
end

section
/-! The statements about CLZ (41_clz.md): the count that its completion leaves, the laws of the count, and the
source's binary search for it. -/

namespace Sys2Proof.Machine

/-! ### The count -/

@[simp] theorem clz_zero : clz 0 = 32 := rfl

/-- The count of R83, from the position of the most significant set bit. -/
theorem clz_eq_of_top_bit {x : Word} {p : Nat} (hp : p < 32) (hset : x.getLsbD p = true)
    (habove : ∀ i, p < i → i < 32 → x.getLsbD i = false) : clz x = 31 - p := by
  have hlo : 2 ^ p ≤ x.toNat := Nat.ge_two_pow_of_testBit hset
  have hhi : x.toNat < 2 ^ (p + 1) := by
    refine Nat.lt_pow_two_of_testBit _ fun i hi => ?_
    obtain hi32 | hi32 := Nat.lt_or_ge i 32
    · exact habove i hi hi32
    · exact BitVec.getLsbD_of_ge x i hi32
  exact clz_eq_of_bounds (by omega) (by rwa [show 31 - (31 - p) = p by omega])
    (by rwa [show 32 - (31 - p) = p + 1 by omega])

/-- `1 << k` has its one bit at position `k`. -/
theorem clz_one_shiftLeft {k : Nat} (hk : k < 32) : clz (1#32 <<< k) = 31 - k := by
  have hbit (i : Nat) : (1#32 <<< k).getLsbD i = decide (i = k) := by
    simp [← BitVec.twoPow_eq, BitVec.getLsbD_twoPow, hk, eq_comm]
  exact clz_eq_of_top_bit hk (by simp [hbit]) fun i hi _ => by simp [hbit, hi.ne']

/-- Bits below the highest set bit do not change the count: they leave the word in its bracket (R85). -/
theorem clz_or_of_lt {x y : Word} (hx : x ≠ 0) (hy : y.toNat < 2 ^ (31 - clz x)) : clz (x ||| y) = clz x := by
  obtain ⟨hle, hlo, hhi⟩ := clz_bounds hx
  have hy' : y.toNat < 2 ^ (32 - clz x) := hy.trans_le (Nat.pow_le_pow_right (by decide) (by omega))
  refine clz_eq_of_bounds hle ?_ ?_ <;> rw [BitVec.toNat_or]
  · exact hlo.trans Nat.left_le_or
  · exact Nat.or_lt_two_pow hhi hy'

/-! ### Completion -/

/-- CLZ in flight retires the count of the latched A (R83). -/
theorem exec_clz_inFlight {s : State} {a b c : Word}
    (h : s.pend = some { op := .clz, a := a, b := b, c := c }) :
    exec .clz s =
      .next { s with resLo := trunc32 (clz a), resHi := 0, dz := false, inf := false, pend := none } :=
  exec_inFlight h

/-- Settles O4: the latched A is 0 or has a highest set bit, and either fixes the count. -/
theorem clzCompletesWithLeadingZeroCount : Obligations.ClzCompletesWithLeadingZeroCount := by
  refine ⟨rfl, fun s a b c h => ⟨fun ha => ?zero, fun p hp hset habove => ?nonzero⟩⟩
  case zero =>
    rw [exec_clz_inFlight h, ha, clz_zero]
    rfl
  case nonzero =>
    rw [exec_clz_inFlight h, clz_eq_of_top_bit hp hset habove]
    rfl

/-! ### The laws of the count -/

/-- The count fits RES_LO. -/
theorem trunc32_clz_toNat (x : Word) : (trunc32 (clz x)).toNat = clz x :=
  trunc32_toNat_of_lt ((clz_le x).trans_lt (by decide))

/-- Settles O14: the count a completion leaves is `clz`, and its bracket fixes it. -/
theorem clzCountLaws : Obligations.ClzCountLaws := by
  refine fun s => ⟨clz, fun x b c => ?completion, clz_zero, fun k hk => clz_one_shiftLeft hk, fun x hx => ?bracket⟩
  case completion => exact ⟨_, exec_latched s .clz x b c, trunc32_clz_toNat x⟩
  case bracket =>
    obtain ⟨_, hlo, hhi⟩ := clz_bounds hx
    have hpos := Nat.two_pow_pos (31 - clz x)
    have hbelow : (BitVec.ofNat 32 (2 ^ (31 - clz x) - 1)).toNat < 2 ^ (31 - clz x) :=
      (Nat.mod_le _ _).trans_lt (by omega)
    exact ⟨hlo, hhi, (clz_or_of_lt hx hbelow).symm⟩

/-! ### Binary-search halving -/

/-- The test of a window: the top `k` bits of a nonzero word are 0 exactly where it has at least `k` leading zeros. -/
theorem shiftRight_eq_zero_iff_le_clz {v : Word} (hv : v ≠ 0) {k : Nat} (hk : k ≤ 32) :
    v >>> (32 - k) = 0 ↔ k ≤ clz v := by
  obtain ⟨hle, hlo, hhi⟩ := clz_bounds hv
  have hzero : v >>> (32 - k) = 0 ↔ v.toNat < 2 ^ (32 - k) := by
    rw [← BitVec.toNat_inj, BitVec.toNat_ushiftRight, Nat.shiftRight_eq_div_pow]
    exact Nat.div_eq_zero_iff_lt (Nat.two_pow_pos _)
  rw [hzero]
  constructor
  · intro hlt
    have := (Nat.pow_lt_pow_iff_right (by decide)).1 (hlo.trans_lt hlt)
    omega
  · intro hkc
    exact hhi.trans_le (Nat.pow_le_pow_right (by decide) (by omega))

/-- Shifting out `k` leading zeros leaves a nonzero word with `k` fewer of them. -/
theorem clz_shiftLeft {v : Word} (hv : v ≠ 0) {k : Nat} (hk : k ≤ clz v) :
    v <<< k ≠ 0 ∧ clz (v <<< k) = clz v - k := by
  obtain ⟨hle, hlo, hhi⟩ := clz_bounds hv
  have hlt : v.toNat * 2 ^ k < 2 ^ (32 - (clz v - k)) := by
    calc v.toNat * 2 ^ k < 2 ^ (32 - clz v) * 2 ^ k := Nat.mul_lt_mul_of_pos_right hhi (Nat.two_pow_pos k)
      _ = 2 ^ (32 - (clz v - k)) := by rw [← Nat.pow_add]; congr 1; omega
  have hge : 2 ^ (31 - (clz v - k)) ≤ v.toNat * 2 ^ k := by
    calc 2 ^ (31 - (clz v - k)) = 2 ^ (31 - clz v) * 2 ^ k := by rw [← Nat.pow_add]; congr 1; omega
      _ ≤ v.toNat * 2 ^ k := Nat.mul_le_mul_right _ hlo
  have hval : (v <<< k).toNat = v.toNat * 2 ^ k := by
    rw [BitVec.toNat_shiftLeft, Nat.shiftLeft_eq]
    exact Nat.mod_eq_of_lt (hlt.trans_le (Nat.pow_le_pow_right (by decide) (by omega)))
  rw [← hval] at hlt hge
  refine ⟨fun h0 => ?_, clz_eq_of_bounds (by omega) hge hlt⟩
  rw [h0] at hge
  exact absurd hge (Nat.not_le.2 (Nat.two_pow_pos _))

/-- What the search for the count of `x` keeps: the count so far and the leading zeros of the working value make up
the count of `x`, and fewer than `k` of those zeros are still to be counted. -/
structure ClzSearch (x : Word) (k : Nat) (nv : Nat × Word) : Prop where
  nonzero : nv.2 ≠ 0
  total : nv.1 + clz nv.2 = clz x
  bound : clz nv.2 < k

/-- The search starts with fewer than 32 zeros to count. -/
theorem clzSearch_start {x : Word} (hx : x ≠ 0) : ClzSearch x (2 * 16) (0, x) where
  nonzero := hx
  total := Nat.zero_add _
  bound := Nat.lt_succ_of_le (clz_bounds hx).1

/-- A window of `k` bits halves the bound on the zeros still to be counted. -/
theorem clzWindow_halves {x : Word} {k : Nat} {nv : Nat × Word} (hk : k ≤ 32) (h : ClzSearch x (2 * k) nv) :
    ClzSearch x k (clzWindow k nv) := by
  obtain ⟨hne, htotal, hbound⟩ := h
  unfold clzWindow
  split_ifs with htop <;> rw [shiftRight_eq_zero_iff_le_clz hne hk] at htop
  · obtain ⟨hne', hclz⟩ := clz_shiftLeft hne htop
    exact ⟨hne', by simp only [hclz]; omega, by simp only [hclz]; omega⟩
  · exact ⟨hne, htotal, Nat.not_le.1 htop⟩

/-- Settles O19: the five windows bring the zeros still to be counted from below 32 to below 1. -/
theorem clzBinarySearchAgrees : Obligations.ClzBinarySearchAgrees := by
  intro x
  unfold clzBinarySearch
  split_ifs with hx
  · rw [hx, clz_zero]
  · have h16 := clzWindow_halves (by decide) (clzSearch_start hx)
    have h8 := clzWindow_halves (k := 8) (by decide) h16
    have h4 := clzWindow_halves (k := 4) (by decide) h8
    have h2 := clzWindow_halves (k := 2) (by decide) h4
    have h1 := clzWindow_halves (k := 1) (by decide) h2
    have htotal := h1.total
    rwa [Nat.lt_one_iff.1 h1.bound, Nat.add_zero] at htotal

end Sys2Proof.Machine
end

section
/-! The statements about the multiplications (42_multiply.md): the product that a completion leaves, the laws of the
products, and the source's shift-and-add. -/

namespace Sys2Proof.Machine

/-! ### Completion -/

/-- The value of MULW's result pair is the exact product (R87). -/
theorem mulwResult_value (a b c : Word) :
    pairValue (mulwResult a b c).hi (mulwResult a b c).lo = a.toNat * b.toNat :=
  pairValue_halves (mulWide_lt a b)

/-- MULW in flight retires the halves of the product of the latched A and B (R87). -/
theorem exec_mulw_inFlight {s : State} {a b c : Word}
    (h : s.pend = some { op := .mulw, a := a, b := b, c := c }) :
    exec .mulw s =
      .next { s with
        resLo := lowHalf (mulWide a b), resHi := highHalf (mulWide a b), dz := false, inf := false,
        pend := none } :=
  exec_inFlight h

/-- MUL in flight retires the low half of the product of the latched A and B (R88). -/
theorem exec_mul_inFlight {s : State} {a b c : Word}
    (h : s.pend = some { op := .mul, a := a, b := b, c := c }) :
    exec .mul s =
      .next { s with resLo := lowHalf (mulWide a b), resHi := 0, dz := false, inf := false, pend := none } :=
  exec_inFlight h

/-- Settles O5: the product is below 2^64, so its two halves make it up. -/
theorem mulwCompletesWithExactProduct : Obligations.MulwCompletesWithExactProduct :=
  ⟨rfl, fun _ a b c h => ⟨_, _, mulwResult_value a b c, exec_mulw_inFlight h⟩⟩

/-- The low half of a product of integers depends on the operands modulo 2^32 only (R88). -/
theorem lowHalf_mulWide_congr (a b : Word) (k m : Int) :
    ((lowHalf (mulWide a b)).toNat : Int) = (a.toNat + k * 2 ^ 32) * (b.toNat + m * 2 ^ 32) % 2 ^ 32 := by
  have hlow : ((lowHalf (mulWide a b)).toNat : Int) = a.toNat * b.toNat % 2 ^ 32 := by
    rw [lowHalf_toNat, mulWide]
    norm_cast
  rw [hlow, Int.mul_emod (a.toNat + k * 2 ^ 32), Int.add_mul_emod_self_right, Int.add_mul_emod_self_right,
    ← Int.mul_emod]

/-- Settles O6: the completion leaves the low half, and `lowHalf_mulWide_congr` is its congruence. -/
theorem mulCompletesWithTruncatedProduct : Obligations.MulCompletesWithTruncatedProduct :=
  ⟨rfl, fun _ a b _ h =>
    ⟨_, lowHalf_toNat (mulWide a b), lowHalf_mulWide_congr a b, exec_mul_inFlight h⟩⟩

/-! ### The laws of the products -/

theorem mulWide_comm (a b : Word) : mulWide a b = mulWide b a := Nat.mul_comm _ _

/-- A product with 2^k is the pair of A shifted right by 32 - k and left by k: the bits that the left shift drops are
those that the right shift keeps (R90). -/
theorem mulWide_two_pow (a : Word) {k : Nat} (hk : k ≤ 31) :
    mulWide a (BitVec.ofNat 32 (2 ^ k)) = pairValue (a >>> (32 - k)) (a <<< k) := by
  have hpow : (BitVec.ofNat 32 (2 ^ k)).toNat = 2 ^ k :=
    trunc32_toNat_of_lt (Nat.pow_lt_pow_right (by decide) (by omega))
  have hhi : (a >>> (32 - k)).toNat = a.toNat * 2 ^ k / 2 ^ 32 := by
    rw [BitVec.toNat_ushiftRight, Nat.shiftRight_eq_div_pow,
      ← Nat.mul_div_mul_right _ _ (Nat.two_pow_pos k), ← Nat.pow_add, Nat.sub_add_cancel (by omega)]
  have hlo : (a <<< k).toNat = a.toNat * 2 ^ k % 2 ^ 32 := by
    rw [BitVec.toNat_shiftLeft, Nat.shiftLeft_eq]
  rw [mulWide, hpow, pairValue, hhi, hlo, Nat.div_add_mod']

/-- Settles O15: both halves are functions of the one product, which is commutative and, for 2^k, the pair of
shifts. -/
theorem multiplyLaws : Obligations.MultiplyLaws := by
  refine fun s a b c => ⟨_, _, _, exec_latched s .mulw a b c, exec_latched s .mulw b a c, exec_latched s .mul a b c,
    mulwResult_value a b c, congrArg lowHalf (mulWide_comm b a), congrArg highHalf (mulWide_comm b a), rfl,
    fun k _ hk hb => ?twoPow⟩
  case twoPow =>
    subst hb
    have hhalves := halves_pairValue (a >>> (32 - k)) (a <<< k)
    rwa [← mulWide_two_pow a hk] at hhalves

/-! ### Shift-and-add -/

/-- After the bits of B below `n` the accumulator is exactly A times those bits: the sum stays at most A times B, so
the addition for a set bit does not overflow 64 bits (R89). -/
theorem mulShiftAddUpTo_toNat (a b : Word) (n : Nat) :
    (mulShiftAddUpTo a b n).toNat = a.toNat * (b.toNat % 2 ^ n) := by
  induction n with
  | zero => simp [mulShiftAddUpTo, Nat.mod_one]
  | succ n ih =>
    have hbits : b.toNat % 2 ^ (n + 1) = b.toNat % 2 ^ n + 2 ^ n * (b.getLsbD n).toNat := by
      rw [← BitVec.testBit_toNat, Nat.toNat_testBit, Nat.mod_pow_succ]
    have hfits : a.toNat * (b.toNat % 2 ^ (n + 1)) < 2 ^ 64 :=
      (Nat.mul_le_mul_left _ (Nat.mod_le _ _)).trans_lt (mulWide_lt a b)
    rw [hbits] at hfits ⊢
    rw [mulShiftAddUpTo]
    cases hbit : b.getLsbD n with
    | false => simpa using ih
    | true =>
      have hwide : (a.setWidth 64).toNat = a.toNat := BitVec.toNat_setWidth_of_le (by decide)
      simp only [hbit, Bool.toNat_true, Nat.mul_one, Nat.mul_add, if_true] at hfits ⊢
      rw [BitVec.toNat_add, BitVec.toNat_shiftLeft, Nat.add_mod_mod, hwide, ih, Nat.shiftLeft_eq,
        Nat.mod_eq_of_lt hfits]

/-- Settles O20: the bits of B below 32 are B. -/
theorem mulShiftAddAgrees : Obligations.MulShiftAddAgrees := by
  refine fun a b => ⟨?_, fun n _ => mulShiftAddUpTo_toNat a b n⟩
  rw [mulShiftAdd, mulShiftAddUpTo_toNat, Nat.mod_eq_of_lt b.isLt]

end Sys2Proof.Machine
end

section
/-! The statements about the divisions (43_divide.md): the quotient and the remainder that a completion leaves, the
division identity, and the source's restoring long division. -/

namespace Sys2Proof.Machine

/-! ### Quotient and remainder -/

@[simp] theorem quotient_zero (a : Word) : quotient a 0 = 0 := rfl

@[simp] theorem remainder_zero (a : Word) : remainder a 0 = 0 := rfl

/-- The quotient is at most the dividend, so RES_LO holds it without truncation (R92). -/
theorem quotient_toNat (a : Word) {b : Word} (hb : b ≠ 0) : (quotient a b).toNat = a.toNat / b.toNat := by
  rw [quotient, if_neg hb, trunc32_toNat_of_lt ((Nat.div_le_self _ _).trans_lt a.isLt)]

/-- The remainder is at most the dividend, so RES_LO holds it without truncation (R93). -/
theorem remainder_toNat (a : Word) {b : Word} (hb : b ≠ 0) : (remainder a b).toNat = a.toNat % b.toNat := by
  rw [remainder, if_neg hb, trunc32_toNat_of_lt ((Nat.mod_le _ _).trans_lt a.isLt)]

/-! ### Completion -/

/-- UDIV in flight retires the quotient of the latched A and B, and DZ tells of a zero divisor (R92). -/
theorem exec_udiv_inFlight {s : State} {a b c : Word}
    (h : s.pend = some { op := .udiv, a := a, b := b, c := c }) :
    exec .udiv s =
      .next { s with resLo := quotient a b, resHi := 0, dz := b == 0, inf := false, pend := none } :=
  exec_inFlight h

/-- UMOD in flight retires the remainder of the latched A and B, and DZ tells of a zero divisor (R93). -/
theorem exec_umod_inFlight {s : State} {a b c : Word}
    (h : s.pend = some { op := .umod, a := a, b := b, c := c }) :
    exec .umod s =
      .next { s with resLo := remainder a b, resHi := 0, dz := b == 0, inf := false, pend := none } :=
  exec_inFlight h

/-- Settles O7: the completion leaves `quotient`, which is 0 for a zero divisor. -/
theorem udivCompletesWithQuotient : Obligations.UdivCompletesWithQuotient := by
  refine ⟨rfl, fun s a b c h => ⟨fun hb => ?zero, fun hb => ⟨_, quotient_toNat a hb, ?nonzero⟩⟩⟩
  case zero =>
    rw [exec_udiv_inFlight h, hb, quotient_zero]
    rfl
  case nonzero => rw [exec_udiv_inFlight h, beq_false_of_ne hb]

/-- Settles O8: the completion leaves `remainder`, which is 0 for a zero divisor. -/
theorem umodCompletesWithRemainder : Obligations.UmodCompletesWithRemainder := by
  refine ⟨rfl, fun s a b c h => ⟨fun hb => ?zero, fun hb => ⟨_, remainder_toNat a hb, ?nonzero⟩⟩⟩
  case zero =>
    rw [exec_umod_inFlight h, hb, remainder_zero]
    rfl
  case nonzero => rw [exec_umod_inFlight h, beq_false_of_ne hb]

/-! ### The division identity -/

/-- Quotient times divisor plus remainder is the dividend (R95). -/
theorem quotient_mul_add_remainder (a : Word) {b : Word} (hb : b ≠ 0) :
    (quotient a b).toNat * b.toNat + (remainder a b).toNat = a.toNat := by
  rw [quotient_toNat a hb, remainder_toNat a hb, Nat.div_add_mod']

theorem remainder_lt (a : Word) {b : Word} (hb : b ≠ 0) : (remainder a b).toNat < b.toNat :=
  remainder_toNat a hb ▸ Nat.mod_lt _ (BitVec.toNat_pos_of_ne_zero hb)

/-- Settles O16: the completions leave `quotient` and `remainder`; for a zero divisor the left side of the identity
is 0. -/
theorem divisionIdentity : Obligations.DivisionIdentity := by
  refine fun s a b c => ⟨_, _, exec_latched s .udiv a b c, exec_latched s .umod a b c,
    fun hb => ⟨quotient_mul_add_remainder a hb, remainder_lt a hb⟩, fun hb => ?zeroDivisor⟩
  case zeroDivisor =>
    subst hb
    exact ⟨quotient_zero a, remainder_zero a, fun ha => (BitVec.toNat_pos_of_ne_zero ha).ne⟩

/-! ### Restoring long division -/

/-- The bits of the dividend from `i` up are those from `i + 1` up, with bit `i` brought in. -/
theorem div_two_pow_eq_two_mul_add_bit (n : Word) (i : Nat) :
    n.toNat / 2 ^ i = 2 * (n.toNat / 2 ^ (i + 1)) + (n.getLsbD i).toNat := by
  rw [← BitVec.testBit_toNat, Nat.toNat_testBit, Nat.pow_succ, ← Nat.div_div_eq_div_mul, Nat.div_add_mod]

theorem div_two_pow_lt (n : Word) {i : Nat} (hi : i ≤ 32) : n.toNat / 2 ^ i < 2 ^ (32 - i) := by
  apply Nat.div_lt_of_lt_mul
  rw [← Nat.pow_add, Nat.add_sub_cancel' hi]
  exact n.isLt

/-- A register shifted left by one with a bit brought in doubles and adds the bit, where the shift drops no bit. -/
theorem shiftIn_toNat {r : Word} {bit : Bool} (h : 2 * r.toNat + bit.toNat < 2 ^ 32) :
    (r <<< 1 ||| (BitVec.ofBool bit).setWidth 32).toNat = 2 * r.toNat + bit.toNat := by
  have hshift : (r <<< 1).toNat = r.toNat <<< 1 := by
    rw [BitVec.toNat_shiftLeft, Nat.shiftLeft_eq, Nat.mod_eq_of_lt (by omega)]
  rw [BitVec.toNat_or, hshift, BitVec.toNat_setWidth_of_le (by decide), BitVec.toNat_ofBool,
    ← Nat.shiftLeft_add_eq_or_of_lt bit.toNat_lt, Nat.shiftLeft_eq, Nat.mul_comm, Nat.pow_one]

/-- Setting bit `i` of a word whose lowest `i + 1` bits are clear. -/
theorem setBit_toNat {q : Word} {i k : Nat} (hi : i < 32) (hq : q.toNat = k * 2 ^ (i + 1)) :
    (q ||| 1#32 <<< i).toNat = (2 * k + 1) * 2 ^ i := by
  have hbit : (1#32 <<< i).toNat = 2 ^ i := by
    rw [← BitVec.twoPow_eq, BitVec.toNat_twoPow_of_lt hi]
  have hlt : 2 ^ i < 2 ^ (i + 1) := Nat.pow_lt_pow_right (by decide) i.lt_succ_self
  rw [BitVec.toNat_or, hbit, hq, ← Nat.shiftLeft_eq, ← Nat.shiftLeft_add_eq_or_of_lt hlt, Nat.shiftLeft_eq]
  ring

/-- A digit of long division in base 2: the doubled remainder with the next bit is below twice the divisor, so it
holds the divisor at most once. -/
theorem div_mod_two_mul_add_bit (m : Nat) {d : Nat} (hd : 0 < d) (bit : Bool) :
    (2 * m + bit.toNat) / d = (if d ≤ 2 * (m % d) + bit.toNat then 2 * (m / d) + 1 else 2 * (m / d)) ∧
    (2 * m + bit.toNat) % d =
      (if d ≤ 2 * (m % d) + bit.toNat then 2 * (m % d) + bit.toNat - d else 2 * (m % d) + bit.toNat) := by
  have hm := Nat.mod_add_div m d
  have hlt := Nat.mod_lt m hd
  have hbit := bit.toNat_le
  rw [Nat.div_mod_unique hd]
  split_ifs with hfits
  · refine ⟨?_, by omega⟩
    rw [Nat.mul_add, Nat.mul_left_comm]
    omega
  · refine ⟨?_, by omega⟩
    rw [Nat.mul_left_comm]
    omega

/-- What R94's loop has in its registers after the step for bit `i`: the bits of the dividend from `i` up are divided,
and their quotient stands at the bits from `i` up. -/
structure LongDivision (n d : Word) (i : Nat) (qr : Word × Word) : Prop where
  quotient : qr.1.toNat = n.toNat / 2 ^ i / d.toNat * 2 ^ i
  remainder : qr.2.toNat = n.toNat / 2 ^ i % d.toNat

section
variable {n d : Word} {i : Nat} {qr : Word × Word}

theorem LongDivision.remainder_le (h : LongDivision n d i qr) : qr.2.toNat ≤ n.toNat / 2 ^ i :=
  h.remainder ▸ Nat.mod_le _ _

/-- The next step's shift stays below 2^(33-i), so it drops no bit of a 32-bit register (R94). -/
theorem LongDivision.next_shift_lt (h : LongDivision n d i qr) (hi : i ≤ 32) (bit : Bool) :
    2 * qr.2.toNat + bit.toNat < 2 ^ (33 - i) := by
  have hr := h.remainder_le.trans_lt (div_two_pow_lt n hi)
  have hbit := bit.toNat_le
  rw [Nat.succ_sub hi, Nat.pow_succ]
  omega

/-- The step for bit `i` brings that bit in. -/
theorem divideBit_longDivision (hd : d ≠ 0) (hi : i < 32) (h : LongDivision n d (i + 1) qr) :
    LongDivision n d i (divideBit n d i qr) := by
  have hshift := shiftIn_toNat ((h.next_shift_lt hi (n.getLsbD i)).trans_le
    (Nat.pow_le_pow_right (by decide) (by omega)))
  obtain ⟨hdiv, hmod⟩ :=
    div_mod_two_mul_add_bit (n.toNat / 2 ^ (i + 1)) (BitVec.toNat_pos_of_ne_zero hd) (n.getLsbD i)
  rw [← div_two_pow_eq_two_mul_add_bit, ← h.remainder, ← hshift] at hdiv hmod
  simp only [divideBit, BitVec.le_def]
  split_ifs at hdiv hmod ⊢ with hfits
  · exact ⟨by rw [hdiv, setBit_toNat hi h.quotient], by rw [hmod, BitVec.toNat_sub_of_le (BitVec.le_def.mpr hfits)]⟩
  · exact ⟨by rw [hdiv, h.quotient, Nat.pow_succ]; ring, by rw [hmod]⟩

/-- The loop, from no bit brought in down to the bits from `32 - k` up. -/
theorem divideSteps_longDivision (n : Word) (hd : d ≠ 0) {k : Nat} (hk : k ≤ 32) :
    LongDivision n d (32 - k) (divideSteps n d k) := by
  induction k with
  | zero =>
    have hnone : n.toNat / 2 ^ (32 - 0) = 0 := Nat.div_eq_of_lt n.isLt
    refine ⟨?_, ?_⟩ <;> rw [hnone]
    · rw [Nat.zero_div, Nat.zero_mul]; rfl
    · rw [Nat.zero_mod]; rfl
  | succ k ih =>
    have hprev := ih (by omega)
    rw [show 32 - k = 31 - k + 1 by omega] at hprev
    rw [show 32 - (k + 1) = 31 - k by omega]
    exact divideBit_longDivision hd (by omega) hprev

/-- After the step for bit 0 all of the dividend is divided. -/
theorem divideRestoring_eq (n : Word) (hd : d ≠ 0) : divideRestoring n d = (quotient n d, remainder n d) := by
  obtain ⟨hq, hr⟩ := divideSteps_longDivision n hd (Nat.le_refl 32)
  rw [Nat.sub_self, Nat.pow_zero, Nat.div_one] at hq hr
  rw [Nat.mul_one, ← quotient_toNat n hd] at hq
  rw [← remainder_toNat n hd] at hr
  exact Prod.ext (BitVec.eq_of_toNat_eq hq) (BitVec.eq_of_toNat_eq hr)

end

/-- Settles O21: the loop ends with `quotient` and `remainder`, and the bounds hold of `LongDivision` after every
step. -/
theorem divideRestoringAgrees : Obligations.DivideRestoringAgrees := by
  intro n d hd
  refine ⟨?quotient, ?remainder, divideRestoring_eq n hd, rfl, fun i hi => ?bounds⟩
  case quotient => rw [divideRestoring_eq n hd, quotient_toNat n hd]
  case remainder => rw [divideRestoring_eq n hd, remainder_toNat n hd]
  case bounds =>
    have h := divideSteps_longDivision n hd (Nat.sub_le 32 i)
    rw [Nat.sub_sub_self (by omega)] at h
    exact ⟨h.remainder_le, div_two_pow_lt n (by omega), fun _ => h.next_shift_lt (by omega) _⟩

end Sys2Proof.Machine
end

section
/-! The statements about the shifts (44_shift64.md): what a completion leaves, the source's shifts by halves, and the
laws of the shifts. The pair of a low and a high half is the 64-bit word `hi ++ lo`, and every result here is a shift
of that word by the whole amount. -/

namespace Sys2Proof.Machine

/-! ### The test for 64 -/

theorem shiftLeft64_of_ge {v amount : Nat} (h : 64 ≤ amount) : shiftLeft64 v amount = 0 := if_pos h

theorem shiftRight64_of_ge {v amount : Nat} (h : 64 ≤ amount) : shiftRight64 v amount = 0 := if_pos h

/-- The test for 64 only says what the reduction modulo 2^64 leaves of a long shift (R98). -/
theorem shiftLeft64_eq (v amount : Nat) : shiftLeft64 v amount = v * 2 ^ amount % 2 ^ 64 := by
  obtain h | h := Nat.lt_or_ge amount 64
  · exact shiftLeft64_of_lt h
  · rw [shiftLeft64_of_ge h, Nat.mod_eq_zero_of_dvd ((pow_dvd_pow 2 h).mul_left v)]

/-- The test for 64 only says what a long shift leaves of a 64-bit value (R99). -/
theorem shiftRight64_eq {v : Nat} (hv : v < 2 ^ 64) (amount : Nat) : shiftRight64 v amount = v / 2 ^ amount := by
  obtain h | h := Nat.lt_or_ge amount 64
  · exact shiftRight64_of_lt h
  · rw [shiftRight64_of_ge h, Nat.div_eq_of_lt (hv.trans_le (Nat.pow_le_pow_right (by decide) h))]

/-! ### Completion -/

/-- SLL64 in flight retires the shift of the latched pair B, A (R98). -/
theorem exec_sll64_inFlight {s : State} {a b c : Word}
    (h : s.pend = some { op := .sll64, a := a, b := b, c := c }) :
    exec .sll64 s =
      .next { s with
        resLo := (sll64Result a b c).lo, resHi := (sll64Result a b c).hi, dz := false, inf := false,
        pend := none } :=
  exec_inFlight h

/-- SRL64 in flight retires the shift of the latched pair B, A (R99). -/
theorem exec_srl64_inFlight {s : State} {a b c : Word}
    (h : s.pend = some { op := .srl64, a := a, b := b, c := c }) :
    exec .srl64 s =
      .next { s with
        resLo := (srl64Result a b c).lo, resHi := (srl64Result a b c).hi, dz := false, inf := false,
        pend := none } :=
  exec_inFlight h

theorem sll64Result_of_ge (a b : Word) {c : Word} (hc : 64 ≤ c.toNat) : sll64Result a b c = plainResult 0 0 := by
  rw [sll64Result, shiftLeft64_of_ge hc]
  rfl

theorem srl64Result_of_ge (a b : Word) {c : Word} (hc : 64 ≤ c.toNat) : srl64Result a b c = plainResult 0 0 := by
  rw [srl64Result, shiftRight64_of_ge hc]
  rfl

/-- Settles O9: the completion leaves the halves of `shiftLeft64`, which for 64 places or more is 0. -/
theorem sll64CompletesWithLeftShift : Obligations.Sll64CompletesWithLeftShift := by
  refine ⟨rfl, fun s a b c h => ⟨_, _, fun hc => ?long, fun hc => ?short, exec_sll64_inFlight h⟩⟩
  case long =>
    rw [sll64Result_of_ge a b hc]
    exact ⟨rfl, rfl⟩
  case short => exact (sll64Result_value a b c).trans (shiftLeft64_of_lt hc)

/-- Settles O10: the completion leaves the halves of `shiftRight64`, which for 64 places or more is 0. -/
theorem srl64CompletesWithRightShift : Obligations.Srl64CompletesWithRightShift := by
  refine ⟨rfl, fun s a b c h => ⟨_, _, fun hc => ?long, fun hc => ?short, exec_srl64_inFlight h⟩⟩
  case long =>
    rw [srl64Result_of_ge a b hc]
    exact ⟨rfl, rfl⟩
  case short => exact (srl64Result_value a b c).trans (shiftRight64_of_lt hc)

/-! ### The pair as a 64-bit word -/

/-- The 64-bit word of a pair has the value of the pair (R12). -/
theorem append_toNat (hi lo : Word) : (hi ++ lo).toNat = pairValue hi lo := by
  rw [BitVec.toNat_append, ← Nat.shiftLeft_add_eq_or_of_lt lo.isLt, Nat.shiftLeft_eq, pairValue]

/-- A pair is determined by its 64-bit word. -/
theorem halves_eq_of_append_eq {p q : Word × Word} (h : p.2 ++ p.1 = q.2 ++ q.1) : p = q := by
  have hvalue := congrArg BitVec.toNat h
  rw [append_toNat, append_toNat] at hvalue
  obtain ⟨hhi, hlo⟩ := pairValue_inj hvalue
  exact Prod.ext hlo hhi

/-- SLL64 is the left shift of a 64-bit word, for every amount (R98). -/
theorem sll64Result_append (a b c : Word) :
    (sll64Result a b c).hi ++ (sll64Result a b c).lo = (b ++ a) <<< c.toNat := by
  apply BitVec.eq_of_toNat_eq
  rw [append_toNat, sll64Result_value, shiftLeft64_eq, BitVec.toNat_shiftLeft, append_toNat, Nat.shiftLeft_eq]

/-- SRL64 is the logical right shift of a 64-bit word, for every amount (R99). -/
theorem srl64Result_append (a b c : Word) :
    (srl64Result a b c).hi ++ (srl64Result a b c).lo = (b ++ a) >>> c.toNat := by
  apply BitVec.eq_of_toNat_eq
  rw [append_toNat, srl64Result_value, shiftRight64_eq (pairValue_lt b a), BitVec.toNat_ushiftRight, append_toNat,
    Nat.shiftRight_eq_div_pow]

/-! ### The shifts by halves -/

section
variable (lo hi : Word) {n : Nat}

/-- Up to 32 places the top bits of the low half carry into the high half (R100). -/
theorem append_shiftLeft_of_le (hn : n ≤ 32) :
    (hi ++ lo) <<< n = (hi <<< n ||| lo >>> (32 - n)) ++ lo <<< n := by
  ext i
  simp only [BitVec.getElem_append, BitVec.getElem_shiftLeft, BitVec.getElem_or, BitVec.getElem_ushiftRight]
  split_ifs with hfromLo hlow hlow
  · rfl
  · -- the carry: bit `i - n` of the low half, at or above 32
    grind
  · omega
  · -- bit `i - 32 - n` of the high half; the carry is below it
    grind

/-- From 32 places on nothing of the high half is left (R100). -/
theorem append_shiftLeft_of_ge (hn : 32 ≤ n) : (hi ++ lo) <<< n = lo <<< (n - 32) ++ 0#32 := by
  ext i
  simp only [BitVec.getElem_append, BitVec.getElem_shiftLeft, BitVec.getElem_zero]
  split_ifs with hfromLo hlow hlow
  · simp [hlow.trans_le hn]
  · -- bit `i - n` of the low half on both sides
    grind
  · omega
  · omega

/-- Up to 32 places the low bits of the high half carry into the low half (R100). -/
theorem append_shiftRight_of_le (hn : n ≤ 32) :
    (hi ++ lo) >>> n = hi >>> n ++ (lo >>> n ||| hi <<< (32 - n)) := by
  ext i
  simp only [BitVec.getElem_append, BitVec.getElem_shiftLeft, BitVec.getElem_or, BitVec.getElem_ushiftRight,
    BitVec.getLsbD_append]
  split_ifs with hfromLo hlow hlow
  · -- bit `n + i` of the low half; the carry is above it
    grind
  · omega
  · -- the carry: bit `n + i - 32` of the high half, below 32
    grind
  · rw [Nat.add_sub_assoc (by omega)]

/-- From 32 places on nothing of the low half is left (R100). -/
theorem append_shiftRight_of_ge (hn : 32 ≤ n) : (hi ++ lo) >>> n = 0#32 ++ hi >>> (n - 32) := by
  ext i
  simp only [BitVec.getElem_append, BitVec.getElem_zero, BitVec.getElem_ushiftRight, BitVec.getLsbD_append]
  split_ifs with hfromLo hlow hlow
  · omega
  · omega
  · rw [Nat.sub_add_comm hn]
  · exact BitVec.getLsbD_of_ge hi _ (by omega)

end

section
variable {lo hi s : Word}

/-- The test for 0 is not needed: it is a shift by 0 and by 32. -/
theorem sllHalves_of_lt (h : s.toNat < 32) :
    sllHalves lo hi s = (lo <<< s.toNat, hi <<< s.toNat ||| lo >>> (32 - s.toNat)) := by
  rw [sllHalves, if_neg (by omega)]
  split_ifs with h0
  · simp [h0, BitVec.ushiftRight_eq_zero]
  · rfl

/-- The test for 64 is not needed from 32 places on. -/
theorem sllHalves_of_ge (h : 32 ≤ s.toNat) : sllHalves lo hi s = (0, lo <<< (s.toNat - 32)) := by
  unfold sllHalves
  split_ifs with h64
  · rw [BitVec.shiftLeft_eq_zero (by omega)]
    rfl
  · omega
  · omega
  · rfl

theorem srlHalves_of_lt (h : s.toNat < 32) :
    srlHalves lo hi s = (lo >>> s.toNat ||| hi <<< (32 - s.toNat), hi >>> s.toNat) := by
  rw [srlHalves, if_neg (by omega)]
  split_ifs with h0
  · simp [h0, BitVec.shiftLeft_eq_zero]
  · rfl

theorem srlHalves_of_ge (h : 32 ≤ s.toNat) : srlHalves lo hi s = (hi >>> (s.toNat - 32), 0) := by
  unfold srlHalves
  split_ifs with h64
  · rw [BitVec.ushiftRight_eq_zero (by omega)]
    rfl
  · omega
  · omega
  · rfl

end

/-- The shift by halves is the left shift of the 64-bit word, for every amount (R100). -/
theorem sllHalves_append (lo hi s : Word) :
    (sllHalves lo hi s).2 ++ (sllHalves lo hi s).1 = (hi ++ lo) <<< s.toNat := by
  obtain h | h := Nat.lt_or_ge s.toNat 32
  · rw [sllHalves_of_lt h, append_shiftLeft_of_le lo hi h.le]
  · rw [sllHalves_of_ge h, append_shiftLeft_of_ge lo hi h]
    rfl

/-- The shift by halves is the right shift of the 64-bit word, for every amount (R100). -/
theorem srlHalves_append (lo hi s : Word) :
    (srlHalves lo hi s).2 ++ (srlHalves lo hi s).1 = (hi ++ lo) >>> s.toNat := by
  obtain h | h := Nat.lt_or_ge s.toNat 32
  · rw [srlHalves_of_lt h, append_shiftRight_of_le lo hi h.le]
  · rw [srlHalves_of_ge h, append_shiftRight_of_ge lo hi h]
    rfl

/-- Settles O22: both sides are the shift of the 64-bit word, which determines its halves. -/
theorem shiftHalvesAgree : Obligations.ShiftHalvesAgree := fun lo hi s =>
  ⟨halves_eq_of_append_eq ((sllHalves_append lo hi s).trans (sll64Result_append lo hi s).symm),
    halves_eq_of_append_eq ((srlHalves_append lo hi s).trans (srl64Result_append lo hi s).symm)⟩

/-! ### The laws of the shifts -/

/-- Two left shifts are one by the sum of the amounts (R101). -/
theorem sllHalves_sllHalves (a b : Word) {c d : Word} (h : c.toNat + d.toNat < 2 ^ 32) :
    sllHalves (sllHalves a b c).1 (sllHalves a b c).2 d = sllHalves a b (c + d) := by
  apply halves_eq_of_append_eq
  rw [sllHalves_append, sllHalves_append, sllHalves_append, ← BitVec.shiftLeft_add, BitVec.toNat_add_of_lt h]

/-- Two right shifts are one by the sum of the amounts (R101). -/
theorem srlHalves_srlHalves (a b : Word) {c d : Word} (h : c.toNat + d.toNat < 2 ^ 32) :
    srlHalves (srlHalves a b c).1 (srlHalves a b c).2 d = srlHalves a b (c + d) := by
  apply halves_eq_of_append_eq
  rw [srlHalves_append, srlHalves_append, srlHalves_append, ← BitVec.shiftRight_add, BitVec.toNat_add_of_lt h]

/-- Settles O17: the completions leave the pairs of `sllHalves` and `srlHalves` (`shiftHalvesAgree`), and the laws are
those of shifts of the 64-bit word. -/
theorem shiftLaws : Obligations.ShiftLaws := fun s =>
  ⟨sllHalves, srlHalves,
    fun a b c => ⟨_, exec_latched s .sll64 a b c, (shiftHalvesAgree a b c).1.symm⟩,
    fun a b c => ⟨_, exec_latched s .srl64 a b c, (shiftHalvesAgree a b c).2.symm⟩,
    fun _ _ => ⟨rfl, rfl, rfl, rfl⟩,
    fun a b c _ _ => ⟨sllHalves_append a b c, srlHalves_append a b c⟩,
    fun a b _ _ h => ⟨sllHalves_sllHalves a b h, srlHalves_srlHalves a b h⟩⟩

/-! ### 32-bit shifts -/

section
variable (x : Word) {s : Word}

/-- Of a pair with high half 0 the left shift is that of the low half, with the bits that drop out of it in the high
half (R102). -/
theorem sllHalves_zero_high (h : s.toNat < 32) : sllHalves x 0 s = (x <<< s.toNat, x >>> (32 - s.toNat)) := by
  rw [sllHalves_of_lt h]
  simp

/-- Of a pair with high half 0 the right shift is that of the low half: nothing carries into it (R102). -/
theorem srlHalves_zero_high (h : s.toNat < 32) : srlHalves x 0 s = (x >>> s.toNat, 0) := by
  rw [srlHalves_of_lt h]
  simp

end

/-- Settles O18: the completions leave the pairs of `sllHalves` and `srlHalves` (`shiftHalvesAgree`) with high half 0. -/
theorem wordShiftIsWideShiftWithZeroHighHalf : Obligations.WordShiftIsWideShiftWithZeroHighHalf := by
  intro s x c hc
  obtain ⟨hsll, hsrl⟩ := shiftHalvesAgree x 0 c
  rw [sllHalves_zero_high x hc, Prod.mk.injEq] at hsll
  rw [srlHalves_zero_high x hc, Prod.mk.injEq] at hsrl
  obtain ⟨hleftLo, hleftHi⟩ := hsll
  obtain ⟨hrightLo, hrightHi⟩ := hsrl
  have hout : (sll64Result x 0 c).hi.toNat = x.toNat / 2 ^ (32 - c.toNat) := by
    rw [← hleftHi, BitVec.toNat_ushiftRight, Nat.shiftRight_eq_div_pow]
  exact ⟨_, _, exec_latched s .sll64 x 0 c, exec_latched s .srl64 x 0 c, hleftLo.symm, hout, hrightLo.symm,
    hrightHi.symm⟩

end Sys2Proof.Machine
end

section
/-! The statements about RSQRT (45_rsqrt.md): the special cases, the default TABLE, and the range of the result. The
range is an invariant of Newton's iteration (`NewtonRange`), which the estimate meets. -/

namespace Sys2Proof.Machine

/-! ### The special cases -/

/-- Every other input takes the general path (R105, R112). -/
theorem rsqrt_of_two_le (table : Table) {x : Word} (hx : 2 ≤ x.toNat) :
    rsqrt table x = newton x (newton x (rsqrtEstimate table x)) := by
  have h0 : x ≠ 0 := by bv_omega
  have h1 : x ≠ 1 := by bv_omega
  rw [rsqrt, if_neg h0, if_neg h1]

/-- Settles O23: the special cases are the first two branches of `rsqrt`, the general path is the third, and the two
iterations for 1 are computed. -/
theorem rsqrtSpecialCases : Obligations.RsqrtSpecialCases :=
  ⟨fun _ => ⟨rfl, rfl⟩, fun table _ hx => rsqrt_of_two_le table hx, by decide, by decide, by decide⟩

/-! ### The default TABLE -/

/-- The default TABLE decreases from each entry to the next, and so over all entries (R107). -/
theorem rsqrtTable_strictAnti : StrictAnti fun k : Fin 32 => Config.rsqrtTable[k].toNat :=
  Fin.strictAnti_iff_succ_lt.mpr (by decide)

/-- Entry `T` of the default TABLE is the integer nearest to `65536/sqrt(2^k)` (R107). -/
theorem rsqrtTable_nearest : ∀ k : Fin 32,
    (2 * Config.rsqrtTable[k].toNat - 1) ^ 2 * 2 ^ k.val ≤ 2 ^ 34 ∧
    2 ^ 34 ≤ (2 * Config.rsqrtTable[k].toNat + 1) ^ 2 * 2 ^ k.val := by
  decide

/-- Settles O24: the 32 entries are compared with their bounds, and each with the one before it. -/
theorem tableHoldsNearestIntegers : Obligations.TableHoldsNearestIntegers := by
  refine ⟨rfl, fun k => ?_⟩
  obtain ⟨hlow, hhigh⟩ := rsqrtTable_nearest k
  exact ⟨hlow, hhigh, fun _ hkm => BitVec.lt_def.mpr (rsqrtTable_strictAnti hkm)⟩

/-- Interpolating from an entry of the default TABLE does not reach 0, at the end of the table either (R110). -/
theorem rsqrtDelta_lt_entry : ∀ e : Fin 32,
    (rsqrtDelta Config.rsqrtTable e).toNat < Config.rsqrtTable[e].toNat := by
  decide

/-- `x * T^2` stays below 9/4 of 2^32 over the band of an entry `T`; exact entries would give 2, and 9/4 is from the
rounding up to 6 and 3 at 27 and 29. -/
theorem rsqrtTable_sq_mul_le : ∀ e : Fin 32, 1 ≤ e.val →
    2 ^ (e.val + 1) * (Config.rsqrtTable[e].toNat * Config.rsqrtTable[e].toNat) ≤ 9 * 2 ^ 30 := by
  decide

/-- From entry 1 on the default TABLE is at most 46341. -/
theorem rsqrtTable_le {e : Fin 32} (he : 1 ≤ e.val) : Config.rsqrtTable[e].toNat ≤ 46341 :=
  rsqrtTable_strictAnti.antitone (show (1 : Fin 32) ≤ e from he)

/-! ### The estimate -/

/-- The exponent of stage 1 brackets `x` (R106). -/
theorem rsqrtExp_bounds {x : Word} (hx : x ≠ 0) :
    2 ^ (rsqrtExp x).val ≤ x.toNat ∧ x.toNat < 2 ^ ((rsqrtExp x).val + 1) := by
  obtain ⟨hle, hlo, hhi⟩ := clz_bounds hx
  refine ⟨hlo, ?_⟩
  rwa [show (rsqrtExp x).val + 1 = 32 - clz x by simp only [rsqrtExp]; omega]

section
variable {x : Word} {e : Fin 32}

/-- The fraction loses no bit on the way (R109). -/
theorem rsqrtFrac_toNat (hhi : x.toNat < 2 ^ (e.val + 1)) :
    (rsqrtFrac x e.val).toNat = (x.toNat - 2 ^ e.val) * 2 ^ 16 / 2 ^ e.val := by
  have hx := x.isLt
  have hshift : (x.toNat - 2 ^ e.val) * 2 ^ 16 < 2 ^ 64 := by omega
  have hfrac : (x.toNat - 2 ^ e.val) * 2 ^ 16 / 2 ^ e.val < 2 ^ 32 := by
    rw [Nat.div_lt_iff_lt_mul (Nat.two_pow_pos _)]
    rw [Nat.pow_succ] at hhi
    omega
  rw [rsqrtFrac, shiftLeft64_of_lt (by decide), Nat.mod_eq_of_lt hshift, shiftRight64_of_lt (by omega),
    trunc32_toNat_of_lt hfrac]

/-- The fraction is below 1 in Q16 (R109). -/
theorem rsqrtFrac_lt (hhi : x.toNat < 2 ^ (e.val + 1)) : (rsqrtFrac x e.val).toNat < 2 ^ 16 := by
  rw [rsqrtFrac_toNat hhi, Nat.div_lt_iff_lt_mul (Nat.two_pow_pos _)]
  have := Nat.two_pow_pos e.val
  rw [Nat.pow_succ] at hhi
  omega

/-- What the interpolation takes off the entry is at most the difference to the next one (R110). -/
theorem interpolation_le (delta : Word) (hhi : x.toNat < 2 ^ (e.val + 1)) :
    (trunc32 (shiftRight64 (mulWide delta (rsqrtFrac x e.val)) 16)).toNat ≤ delta.toNat := by
  rw [trunc32_toNat, shiftRight64_of_lt (by decide), mulWide]
  calc delta.toNat * (rsqrtFrac x e.val).toNat / 2 ^ 16 % 2 ^ 32
    _ ≤ delta.toNat * (rsqrtFrac x e.val).toNat / 2 ^ 16 := Nat.mod_le _ _
    _ ≤ delta.toNat * 2 ^ 16 / 2 ^ 16 := by gcongr; exact (rsqrtFrac_lt hhi).le
    _ = delta.toNat := Nat.mul_div_cancel _ (by decide)

/-- Where the difference is no more than the entry, the estimate lies between the entry less the difference and the
entry, for any TABLE (R110). -/
theorem rsqrtEstimateAt_between {table : Table} (hhi : x.toNat < 2 ^ (e.val + 1))
    (hdelta : (rsqrtDelta table e).toNat ≤ table[e].toNat) :
    table[e].toNat - (rsqrtDelta table e).toNat ≤ (rsqrtEstimateAt table x e).toNat ∧
    (rsqrtEstimateAt table x e).toNat ≤ table[e].toNat := by
  have hle := interpolation_le (rsqrtDelta table e) hhi
  unfold rsqrtEstimateAt
  split_ifs
  · rw [BitVec.toNat_sub_of_le (BitVec.le_def.mpr (hle.trans hdelta))]
    omega
  · omega

end

/-- With the default TABLE the estimate is positive and at most the entry of its band. -/
theorem rsqrtEstimate_bounds {x : Word} (hx : x ≠ 0) :
    1 ≤ (rsqrtEstimate Config.rsqrtTable x).toNat ∧
    (rsqrtEstimate Config.rsqrtTable x).toNat ≤ Config.rsqrtTable[rsqrtExp x].toNat := by
  have hdelta := rsqrtDelta_lt_entry (rsqrtExp x)
  obtain ⟨hlow, hhigh⟩ := rsqrtEstimateAt_between (rsqrtExp_bounds hx).2 hdelta.le
  exact ⟨(Nat.sub_pos_of_lt hdelta).trans_le hlow, hhigh⟩

/-- In the last band the entry is 1, and so is the estimate (R110). -/
theorem rsqrtEstimate_last_band {x : Word} (hx : 0x80000000 ≤ x.toNat) : rsqrtEstimate Config.rsqrtTable x = 1 := by
  have hexp : rsqrtExp x = 31 := rsqrtExp_eq hx x.isLt
  have hne : x ≠ 0 := by bv_omega
  obtain ⟨hlow, hhigh⟩ := rsqrtEstimate_bounds hne
  simp only [hexp] at hhigh
  exact BitVec.eq_of_toNat_eq (Nat.le_antisymm hhigh hlow)

/-! ### Newton's iteration -/

/-- What each iteration needs of the value it starts from and leaves of the value it ends with: a positive Q16 value
in the range of R114 that is not too far above `65536/sqrt(x)`. The bound 9/4 on `x * y^2 / 2^32` leaves `f` at least
3/4 in Q16, enough for a positive result from 3 on; from 1 the width of `x` is enough, and from 2 the last field. -/
structure NewtonRange (x y : Word) : Prop where
  pos : 1 ≤ y.toNat
  le : y.toNat ≤ 46341
  mul_sq_le : x.toNat * (y.toNat * y.toNat) ≤ 9 * 2 ^ 30
  le_of_eq_two : y.toNat = 2 → x.toNat ≤ 2 ^ 31

/-- The estimate is in the range: it is at most its band's entry, and only entries before the last reach 2. -/
theorem rsqrtEstimate_newtonRange {x : Word} (hx : 2 ≤ x.toNat) :
    NewtonRange x (rsqrtEstimate Config.rsqrtTable x) := by
  have hne : x ≠ 0 := by bv_omega
  obtain ⟨hpos, hentry⟩ := rsqrtEstimate_bounds hne
  obtain ⟨-, hhi⟩ := rsqrtExp_bounds hne
  have hexp : 1 ≤ (rsqrtExp x).val := by
    by_contra h
    rw [Nat.lt_one_iff.mp (Nat.not_le.mp h)] at hhi
    omega
  refine ⟨hpos, hentry.trans (rsqrtTable_le hexp), ?_, fun htwo => ?_⟩
  · exact (Nat.mul_le_mul hhi.le (Nat.mul_le_mul hentry hentry)).trans (rsqrtTable_sq_mul_le _ hexp)
  · by_contra h
    rw [rsqrtEstimate_last_band (by omega)] at htwo
    exact absurd htwo (by decide)

/-- From 1 the iteration stays at 1, for every `x`: `f` is above 2 and at most 3 in Q16. -/
theorem newton_one (x : Word) : newton x 1 = 1 := by
  apply BitVec.eq_of_toNat_eq
  have hx := x.isLt
  rw [newton_toNat, show (1 : Word).toNat = 1 from rfl]
  omega

/-- Of two numbers of a given sum, the one times the square of the other is largest where the other is twice the one.
With `t = x * y^2` it says that one Newton update of `y` ends at or below `1/sqrt(x)` up to the truncations. -/
theorem mul_sq_le_of_add_eq {t d b : ℕ} (h : t + d = 3 * b) : t * d ^ 2 ≤ 4 * b ^ 3 := by
  zify at h ⊢
  rw [show (d : ℤ) = 3 * b - t by omega]
  have hfactor : (0 : ℤ) ≤ (b - t) ^ 2 * (4 * b - t) := mul_nonneg (sq_nonneg _) (by omega)
  linarith [show (4 : ℤ) * b ^ 3 - t * (3 * b - t) ^ 2 = (b - t) ^ 2 * (4 * b - t) by ring]

section
variable {x y : Word}

/-- In the range no truncation drops a bit and `f` does not borrow (R113). -/
theorem NewtonRange.newton_toNat_eq (h : NewtonRange x y) :
    (newton x y).toNat = y.toNat * (196608 - x.toNat * (y.toNat * y.toNat) / 2 ^ 16) / 2 ^ 17 := by
  obtain ⟨-, hle, hmul, -⟩ := h
  have hsq : y.toNat * y.toNat < 2 ^ 32 := (Nat.mul_le_mul hle hle).trans_lt (by decide)
  have hf : (2 ^ 32 - x.toNat * (y.toNat * y.toNat) / 2 ^ 16 % 2 ^ 32 + 196608) % 2 ^ 32 =
      196608 - x.toNat * (y.toNat * y.toNat) / 2 ^ 16 := by omega
  have hyf : y.toNat * (196608 - x.toNat * (y.toNat * y.toNat) / 2 ^ 16) ≤ 46341 * 196608 :=
    Nat.mul_le_mul hle (Nat.sub_le _ _)
  rw [newton_toNat, Nat.mod_eq_of_lt hsq, hf]
  exact Nat.mod_eq_of_lt (by omega)

/-- The iteration does not reach 0. -/
theorem NewtonRange.newton_pos (h : NewtonRange x y) : 1 ≤ (newton x y).toNat := by
  rw [h.newton_toNat_eq, Nat.le_div_iff_mul_le (by decide)]
  obtain ⟨hpos, -, hmul, htwo⟩ := h
  have hx := x.isLt
  obtain h1 | h2 | h3 : y.toNat = 1 ∨ y.toNat = 2 ∨ 3 ≤ y.toNat := by omega
  · rw [h1]
    omega
  · have hx2 := htwo h2
    rw [h2]
    omega
  · calc 1 * 2 ^ 17
      _ ≤ 3 * 49152 := by decide
      _ ≤ y.toNat * (196608 - x.toNat * (y.toNat * y.toNat) / 2 ^ 16) := Nat.mul_le_mul h3 (by omega)

/-- The iteration ends at or below `65536/sqrt(x)`, up to what the truncation of `xy2` adds. -/
theorem NewtonRange.mul_newton_sq_lt (h : NewtonRange x y) :
    x.toNat * ((newton x y).toNat * (newton x y).toNat) < 2 ^ 32 + 2 ^ 17 := by
  rw [h.newton_toNat_eq]
  have hmul := h.mul_sq_le
  set t := x.toNat * (y.toNat * y.toNat) with ht
  set z := y.toNat * (196608 - t / 2 ^ 16) / 2 ^ 17
  obtain ⟨d, hd⟩ : ∃ d, t + d = 3 * (2 ^ 32 + 2 ^ 15) := ⟨_, Nat.add_sub_of_le (by omega)⟩
  have hz : z * 2 ^ 33 ≤ y.toNat * d := by
    calc z * 2 ^ 33
      _ = z * 2 ^ 17 * 2 ^ 16 := by ring
      _ ≤ y.toNat * (196608 - t / 2 ^ 16) * 2 ^ 16 := Nat.mul_le_mul_right _ (Nat.div_mul_le_self _ _)
      _ = y.toNat * ((196608 - t / 2 ^ 16) * 2 ^ 16) := Nat.mul_assoc _ _ _
      _ ≤ y.toNat * d := Nat.mul_le_mul_left _ (by omega)
  have hcube : x.toNat * (z * z) * 2 ^ 66 ≤ 4 * (2 ^ 32 + 2 ^ 15) ^ 3 := by
    calc x.toNat * (z * z) * 2 ^ 66
      _ = x.toNat * (z * 2 ^ 33) ^ 2 := by ring
      _ ≤ x.toNat * (y.toNat * d) ^ 2 := by gcongr
      _ = t * d ^ 2 := by rw [ht]; ring
      _ ≤ 4 * (2 ^ 32 + 2 ^ 15) ^ 3 := mul_sq_le_of_add_eq hd
  omega

/-- The range is kept: `x * y^2 < 2^32 + 2^17` leaves `y` at most 46341 where `x` is at least 2. -/
theorem NewtonRange.after_newton (h : NewtonRange x y) (hx : 2 ≤ x.toNat) : NewtonRange x (newton x y) := by
  have hlt := h.mul_newton_sq_lt
  refine ⟨h.newton_pos, ?_, by omega, fun htwo => ?_⟩
  · by_contra hgt
    have hbig : 46342 ≤ (newton x y).toNat := Nat.not_le.mp hgt
    have := Nat.mul_le_mul hx (Nat.mul_le_mul hbig hbig)
    omega
  · rw [htwo] at hlt
    omega

end

/-! ### The range of the result -/

/-- With the default TABLE the general path ends in [1, 46341] (R114). -/
theorem rsqrt_bounds {x : Word} (hx : 2 ≤ x.toNat) :
    1 ≤ (rsqrt Config.rsqrtTable x).toNat ∧ (rsqrt Config.rsqrtTable x).toNat ≤ 46341 := by
  have h := ((rsqrtEstimate_newtonRange hx).after_newton hx).after_newton hx
  rw [rsqrt_of_two_le _ hx]
  exact ⟨h.pos, h.le⟩

/-- With the default TABLE the result is 1 over the whole last band (R114). -/
theorem rsqrt_last_band {x : Word} (hx : 0x80000000 ≤ x.toNat) : rsqrt Config.rsqrtTable x = 1 := by
  rw [rsqrt_of_two_le _ (by omega), rsqrtEstimate_last_band hx, newton_one, newton_one]

/-- A word is 0, 1 or on the general path (R105). -/
theorem eq_zero_or_eq_one_or_two_le (x : Word) : x = 0 ∨ x = 1 ∨ 2 ≤ x.toNat := by bv_omega

/-- With the default TABLE 65536 is the result for 1 only (R114). -/
theorem rsqrt_eq_65536_iff (x : Word) : rsqrt Config.rsqrtTable x = 65536 ↔ x = 1 := by
  refine ⟨fun h => ?_, by rintro rfl; rfl⟩
  obtain rfl | rfl | hx := eq_zero_or_eq_one_or_two_le x
  · exact absurd h (by decide)
  · rfl
  · exact absurd (h ▸ (rsqrt_bounds hx).2) (by decide)

/-- With the default TABLE the sentinel is the result for 0 only (R114). -/
theorem rsqrt_eq_sentinel_iff (x : Word) : rsqrt Config.rsqrtTable x = 0xFFFFFFFF ↔ x = 0 := by
  refine ⟨fun h => ?_, by rintro rfl; rfl⟩
  obtain rfl | rfl | hx := eq_zero_or_eq_one_or_two_le x
  · rfl
  · exact absurd h (by decide)
  · exact absurd (h ▸ (rsqrt_bounds hx).2) (by decide)

/-- RSQRT in flight retires `rsqrt` of the latched A under the state's TABLE, and INF tells of a zero operand (R104). -/
theorem exec_rsqrt_inFlight {s : State} {a b c : Word}
    (h : s.pend = some { op := .rsqrt, a := a, b := b, c := c }) :
    exec .rsqrt s =
      .next { s with resLo := rsqrt s.table a, resHi := 0, dz := false, inf := a == 0, pend := none } :=
  exec_inFlight h

/-- Settles O29: the completion leaves `rsqrt` of the latched A, whose values are those of the special cases and,
from 2 on, in the range that both iterations keep. -/
theorem rsqrtResultRange : Obligations.RsqrtResultRange := by
  intro s a b c htable hp
  have hexec := exec_rsqrt_inFlight hp
  rw [htable] at hexec
  exact ⟨_, hexec, rsqrt_bounds, by rintro rfl; rfl, rsqrt_last_band, rsqrt_eq_65536_iff a,
    rsqrt_eq_sentinel_iff a, beq_iff_eq.trans (rsqrt_eq_sentinel_iff a).symm⟩

end Sys2Proof.Machine
end

section
/-! The statements about the encoding in both directions (30_encoding.md sections 1 and 2). -/

namespace Sys2Proof

/-- The word of every command passes the checks of R59 and carries its code: the family EncodesLegally as one. -/
theorem encodesLegally (i : Instr) : Laws.EncodesLegally.Statement i := by
  cases i with
  | clz => exact Laws.EncodesLegally.clz
  | mulw => exact Laws.EncodesLegally.mulw
  | mul => exact Laws.EncodesLegally.mul
  | udiv => exact Laws.EncodesLegally.udiv
  | umod => exact Laws.EncodesLegally.umod
  | sll64 => exact Laws.EncodesLegally.sll64
  | srl64 => exact Laws.EncodesLegally.srl64
  | rsqrt => exact Laws.EncodesLegally.rsqrt

/-- A word is its RSV field above its OP field (R58). -/
theorem rsvField_append_opField (w : Word) : rsvField w ++ opField w = w :=
  BitVec.extractLsb'_append_extractLsb'_eq_extractLsb' (by rfl) |>.trans (by simp)

@[simp] theorem decode_encode (i : Instr) : decode (encode i) = .command i := by
  obtain ⟨-, hrsv, hop⟩ := encodesLegally i
  exact decode_eq_command_iff.mpr ⟨hrsv, hop.symm⟩

/-- A command has one word only: RSV is 0 and OP is the command's code (R59, R60). -/
theorem eq_encode_of_decode {w : Word} {i : Instr} (h : decode w = .command i) : w = encode i := by
  obtain ⟨hrsv, hcode⟩ := decode_eq_command_iff.mp h
  rw [← rsvField_append_opField w, hrsv, ← hcode]
  rfl

theorem decode_eq_command_iff_eq_encode {w : Word} {i : Instr} : decode w = .command i ↔ w = encode i :=
  ⟨eq_encode_of_decode, fun h => h ▸ decode_encode i⟩

theorem command?_eq_some {d : Decoded} {i : Instr} : d.command? = some i ↔ d = .command i := by
  cases d <;> simp [Decoded.command?]

/-- The decoder on numbered bits reads the 32-bit word that has them. -/
theorem decodeTableWord_eq_some {n : Nat} {i : Instr} :
    decodeTableWord 32 n = some i ↔ ∃ w : Word, n = w.toNat ∧ decode w = .command i := by
  unfold decodeTableWord
  cases h : tableWord 32 n with
  | none =>
    refine iff_of_false nofun ?_
    rintro ⟨w, hn, -⟩
    rw [Machine.tableWord_eq_some.mpr ⟨rfl, hn⟩] at h
    exact nomatch h
  | some v =>
    obtain ⟨-, hn⟩ := Machine.tableWord_eq_some.mp h
    simp [hn, BitVec.toNat_inj, command?_eq_some]

/-- Settles O3: `encode i` is the one word whose RSV is 0 and whose OP is the code of `i`. -/
theorem decodeAndEncodeAgree : Obligations.DecodeAndEncodeAgree := by
  refine ⟨decode_encode, fun _ _ => eq_encode_of_decode, fun n i => ?_⟩
  simp [decodeTableWord_eq_some, decode_eq_command_iff_eq_encode]

/-- Settles O1: the eight words are the encodings, and the reserved words are computed. -/
theorem tableWordsDecodeAndEncode : Obligations.TableWordsDecodeAndEncode :=
  ⟨decode_encode .clz, rfl, decode_encode .mulw, rfl, decode_encode .mul, rfl, decode_encode .udiv, rfl,
    decode_encode .umod, rfl, decode_encode .sll64, rfl, decode_encode .srl64, rfl, decode_encode .rsqrt, rfl,
    by decide, by decide, by decide, by decide⟩

end Sys2Proof
end

section
/-! The statements about the bus (20_memory.md, 10_state.md section 2, 70_reset_and_hazards.md section 1): what an
access reaches, what it does in reset and out of it, and the two reset inputs. -/

namespace Sys2Proof.Machine

/-! ### Steps of the bus -/

/-- A step whose next input is a bus access is that access, with the input taken off the schedule. -/
theorem step_bus {s : State} {acc : Access} {rest : List Input} (h : s.inputs = .bus acc :: rest) :
    step s = busAccess acc { s with inputs := rest } := by
  simp only [step, turn, h, runInput]

section
variable {s : State} {acc : Access} {kind : AccessKind} {width : Width} {addr : Nat}

/-- An access that covers no byte of the window does not reach CORE (R42). -/
theorem target_eq_outside_iff :
    s.target width addr = .outside ↔ addr + width.bytes ≤ s.base ∨ s.base + 0x20 ≤ addr := by
  unfold State.target
  split_ifs with hout halign
  · exact iff_of_true rfl hout
  · exact iff_of_false nofun hout
  · exact iff_of_false nofun hout

/-- An access that touches the window and is narrow, wide, misaligned or begins below it is bad (R45). -/
theorem target_eq_bad (hlo : s.base < addr + width.bytes) (hhi : addr < s.base + 0x20)
    (h : ¬(width = .bits32 ∧ s.base ≤ addr ∧ (addr - s.base) % 4 = 0)) : s.target width addr = .bad := by
  have hin : ¬(addr + width.bytes ≤ s.base ∨ s.base + Config.windowBytes ≤ addr) :=
    not_or.mpr ⟨Nat.not_le.mpr hlo, Nat.not_le.mpr hhi⟩
  rw [State.target, if_neg hin, if_neg h]

/-- An aligned 32-bit access in the window selects a register (R44). -/
theorem target_eq_reg (hlo : s.base ≤ addr) (hhi : addr < s.base + 0x20) (halign : (addr - s.base) % 4 = 0) :
    ∃ r, s.target .bits32 addr = .reg r := by
  have hin : ¬(addr + Width.bits32.bytes ≤ s.base ∨ s.base + Config.windowBytes ≤ addr) := by
    simp only [Width.bytes, Config.windowBytes]
    omega
  exact ⟨_, by rw [State.target, if_neg hin, if_pos ⟨rfl, hlo, halign⟩]⟩

theorem width_bytes_pos (width : Width) : 0 < width.bytes := by
  cases width <;> decide

theorem busAccess_of_outside (h : s.target acc.width acc.addr = .outside) : busAccess acc s = .next s := by
  simp [busAccess, h]

theorem busAccess_of_bad (h : s.target acc.width acc.addr = .bad) (hkind : acc.kind ≠ .fetch) :
    busAccess acc s = .fault .badAccess := by
  unfold busAccess
  rw [h]
  cases hk : acc.kind with
  | read => rfl
  | write v => rfl
  | fetch => exact absurd hk hkind

/-- A fetch is refused wherever it reaches the window (R55). -/
theorem busAccess_of_fetch (h : s.target acc.width acc.addr ≠ .outside) (hkind : acc.kind = .fetch) :
    busAccess acc s = .refused .instructionFetch := by
  unfold busAccess
  rw [hkind]
  cases ht : s.target acc.width acc.addr with
  | outside => exact absurd ht h
  | bad => rfl
  | reg r => rfl

/-- A read or a write of a register is answered, and is the newest entry of the trace (R68). -/
theorem busAccess_of_reg {r : Reg} (h : s.target acc.width acc.addr = .reg r) (hkind : acc.kind ≠ .fetch) :
    ∃ t e, busAccess acc s = .next t ∧ t.trace = e :: s.trace := by
  unfold busAccess
  rw [h]
  cases hk : acc.kind with
  | read => exact ⟨_, _, rfl, rfl⟩
  | write v => exact ⟨_, _, rfl, hostWrite_trace r v s⟩
  | fetch => exact absurd hk hkind

end

/-- Settles O39: in the window the target is a register exactly for an aligned 32-bit access, and bad otherwise. -/
theorem onlyAlignedWordAccessesHaveMeaning : Obligations.OnlyAlignedWordAccessesHaveMeaning := by
  intro s acc rest hin hkind hlo hhi
  rw [step_bus hin]
  refine ⟨fun hbad => busAccess_of_bad (target_eq_bad ?_ hhi ?_) hkind, fun ⟨hwidth, halign⟩ => ?_⟩
  · exact hlo.trans_lt (Nat.lt_add_of_pos_right (width_bytes_pos acc.width))
  · rintro ⟨hwidth, -, halign⟩
    exact hbad.elim (absurd hwidth) (absurd halign)
  · obtain ⟨r, hr⟩ := target_eq_reg hlo hhi halign
    obtain ⟨t, -, ht, -⟩ := busAccess_of_reg (s := { s with inputs := rest }) (hwidth ▸ hr) hkind
    exact ⟨t, ht⟩

/-- Settles O40: outside the window the target is none, and each of the eight slots is a register. -/
theorem accessOutsideWindowHasNoEffect : Obligations.AccessOutsideWindowHasNoEffect := by
  intro s acc rest hin
  rw [step_bus hin]
  refine ⟨fun hout => busAccess_of_outside (target_eq_outside_iff.mpr hout), fun slot hslot hwidth haddr hkind => ?_⟩
  obtain ⟨r, hr⟩ := target_eq_reg (s := s) (addr := acc.addr) (by omega) (by omega) (by omega)
  exact busAccess_of_reg (hwidth ▸ hr) hkind

/-- Settles O41: a fetch that reaches the window is refused before its target matters, and an access that begins below
the window and reaches it is bad. -/
theorem fetchIsRefusedAndStraddleFaults : Obligations.FetchIsRefusedAndStraddleFaults := by
  intro s acc rest hin hlo hhi
  rw [step_bus hin]
  refine ⟨busAccess_of_fetch fun hout => ?_, fun hkind hbelow => busAccess_of_bad (target_eq_bad hlo hhi ?_) hkind⟩
  · exact (target_eq_outside_iff.mp hout).elim (Nat.not_le.mpr hlo) (Nat.not_le.mpr hhi)
  · exact fun ⟨_, hle, _⟩ => absurd hle (Nat.not_le.mpr hbelow)

/-- Settles O52: BASE + off(reg) selects the register. -/
theorem scriptAccessIsBusAccess : Obligations.ScriptAccessIsBusAccess := by
  intro s r v
  simp [busAccess, target_off]

/-! ### Accesses out of reset -/

/-- Settles O36: out of reset the write is the register write and a trace entry. -/
theorem operandWriteStoresTheWord : Obligations.OperandWriteStoresTheWord := fun _ _ _ hs =>
  ⟨step_write_out_of_reset (r := .a) hs, step_write_out_of_reset (r := .b) hs, step_write_out_of_reset (r := .c) hs⟩

/-- STATUS as a number: BUSY, DZ, INF, ILL and COLL weigh 1, 2, 4, 8 and 16 (R27). -/
theorem statusWord_toNat (s : State) :
    s.statusWord.toNat =
      s.pend.isSome.toNat + 2 * s.dz.toNat + 4 * s.inf.toNat + 8 * s.ill.toNat + 16 * s.coll.toNat := by
  simp only [statusWord_eq_concat, BitVec.toNat_concat, State.busy, BitVec.toNat_ofNat]
  omega

/-- Settles O35: the read answers `readReg`, whose value for each slot is its definition. -/
theorem readReturnsRegisterAndChangesNothing : Obligations.ReadReturnsRegisterAndChangesNothing := by
  intro s r rest hs hr
  refine ⟨s.readReg r, step_read_out_of_reset hs hr, ?_, ?_, ?_, ?_, ?_, ?_, ?_, ?status⟩
  case status =>
    rintro rfl
    exact statusWord_toNat s
  all_goals
    rintro rfl
    rfl

/-- Settles O33: of the three ends of a request only acceptance sets no flag. -/
theorem cleanCommandWriteWasAccepted : Obligations.CleanCommandWriteWasAccepted := by
  intro s t w rest hs hw hclean hstep hclean'
  have hreq := step_commandRequest hs hw rfl
  rw [hstep, Host.Outcome.next.injEq] at hreq
  subst hreq
  rcases commandRequest_cases w { s with inputs := rest } with
    ⟨-, hcollide⟩ | ⟨hbusy, i, hd, haccept⟩ | ⟨-, why, -, hreject⟩
  · simp [State.errorFree, hcollide] at hclean'
  · exact ⟨i, hd, hbusy, by rw [haccept]; rfl⟩
  · simp [State.errorFree, hreject] at hclean'

/-! ### Reset -/

/-- Settles O43: the reset inputs clear the registers by definition; in reset a write is only recorded and a read
returns 0. -/
theorem resetClearsAndHoldsCore : Obligations.ResetClearsAndHoldsCore := by
  refine fun s rest => ⟨fun h => ?assert, fun h => ?release, fun r v hs hw => ?write, fun r hs hr => ?read⟩
  case assert =>
    simp only [step, turn, h, runInput]
    rfl
  case release =>
    simp only [step, turn, h, runInput]
    rfl
  case write =>
    rw [step_write hw, hostWrite_in_reset (s := { s with inputs := rest }) hs]
    rfl
  case read =>
    have hzero : State.busRead r { s with inputs := rest } = 0 := if_pos hs
    rw [step_read hr, State.hostRead, hzero]
    rfl

end Sys2Proof.Machine
end

section
/-! The statements about completion steps (40_command_cycle.md sections 1 and 2): their frame, when a step is one, and
acceptance followed by completion. -/

namespace Sys2Proof.Machine

/-! ### The frame of a completion -/

/-- Only MULW, SLL64 and SRL64 give an upper half (R64). -/
theorem resultOf_hi_eq_zero {i : Instr} (hmulw : i ≠ .mulw) (hsll : i ≠ .sll64) (hsrl : i ≠ .srl64)
    (table : Table) (a b c : Word) : (resultOf table i a b c).hi = 0 := by
  cases i with
  | mulw => exact absurd rfl hmulw
  | sll64 => exact absurd rfl hsll
  | srl64 => exact absurd rfl hsrl
  | _ => rfl

/-- Settles O13: a completion that answers a next state is `retire`, which updates five fields. -/
theorem completionChangesOnlyResultsAndLatch : Obligations.CompletionChangesOnlyResultsAndLatch := by
  intro i s t h
  obtain ⟨a, b, c, hp, rfl⟩ := exec_next h
  exact ⟨⟨a, b, c, hp⟩, rfl, rfl, rfl, rfl, rfl, rfl, rfl, rfl, rfl, rfl, rfl, rfl, rfl,
    fun hmulw hsll hsrl => resultOf_hi_eq_zero hmulw hsll hsrl _ a b c⟩

/-! ### Completion steps -/

/-- The turn of the execution unit is `exec` of the command in flight (R74). -/
theorem completeTurn_of_inFlight {s : State} {p : Pending} (hp : s.pend = some p) :
    completeTurn s = exec p.op s := by
  simp [completeTurn, hp]

/-- With none in flight the execution unit's turn does nothing (assumption 20). -/
theorem completeTurn_of_idle {s : State} (hp : s.pend = none) : completeTurn s = .next s := by
  simp [completeTurn, hp]

theorem step_complete {s : State} {rest : List Input} (h : s.inputs = .complete :: rest) :
    step s = completeTurn { s with inputs := rest } := by
  simp only [step, turn, h, runInput]

/-- With an empty schedule a command in flight completes (assumption 2). -/
theorem step_inFlight_of_no_inputs {s : State} {p : Pending} (hp : s.pend = some p) (h : s.inputs = []) :
    step s = exec p.op s := by
  simp only [step, turn, h, defaultTurn, busy_eq_true.mpr ⟨p, hp⟩, if_true, completeTurn_of_inFlight hp]

/-- Fetching a legal word latches its command in a CORE out of reset and puts its completion first (assumption 4). -/
theorem withFetchWord_of_command {s : State} {w : Word} {i : Instr} (hd : decode w = .command i) :
    s.withFetchWord 32 w.toNat =
      { s with
        resetAsserted := false, pend := some { op := i, a := s.a, b := s.b, c := s.c },
        inputs := .complete :: s.inputs } := by
  have hword : tableWord 32 w.toNat = some w := tableWord_eq_some.mpr ⟨rfl, rfl⟩
  have hreq := commandRequest_of_command (s := { s with resetAsserted := false, pend := none }) rfl hd
  simp only [State.withFetchWord, hword, State.fetchWord, hreq]
  rfl

/-- Settles O44: a completion input, or an empty schedule with a command in flight, is the execution unit's turn. -/
theorem stepRunsTheLatchedCommand : Obligations.StepRunsTheLatchedCommand := by
  refine ⟨fun s p rest hp h => ?input, fun s p => step_inFlight_of_no_inputs, fun s rest hp h => ?idle,
    fun s w i hd => ?fetched⟩
  case input =>
    rw [step_complete h]
    exact completeTurn_of_inFlight hp
  case idle =>
    rw [step_complete h]
    exact completeTurn_of_idle hp
  case fetched =>
    rw [withFetchWord_of_command hd, step_complete rfl]
    exact completeTurn_of_inFlight (p := { op := i, a := s.a, b := s.b, c := s.c }) rfl

/-! ### Runs of one and two steps -/

/-- A run of one step is the step. -/
@[simp] theorem run_one (s : State) : runSteps 1 s = step s := by
  rw [run_succ]
  cases step s <;> rfl

/-- Settles O45: the first step accepts the word, the second completes what PEND then holds. -/
theorem acceptThenCompleteIsExec : Obligations.AcceptThenCompleteIsExec := by
  intro s w i rest hs hp hd hw
  have haccept := step_commandRequest hs hw (commandRequest_of_command hp hd)
  rw [run_succ_of_step haccept, run_one, step_complete rfl]
  exact completeTurn_of_inFlight (p := { op := i, a := s.a, b := s.b, c := s.c }) rfl

end Sys2Proof.Machine
end

section
/-! The statements over every step (10_state.md section 8, 60_exceptions.md sections 1 and 2, 70_reset_and_hazards.md
section 1): the invariant, and the writers of each piece of state. -/

namespace Sys2Proof.Machine

/-! ### The invariant -/

/-- The flags and results a completion writes agree: a zero divisor gives 0, RSQRT of 0 gives the sentinel, and no
command sets both flags (R29, R30). -/
theorem retire_resultOf_flagsAgree (s : State) (table : Table) (i : Instr) (a b c : Word) :
    (s.retire (resultOf table i a b c)).FlagsAgree := by
  simp only [State.FlagsAgree, State.retire_dz, State.retire_inf, State.retire_resLo, State.retire_resHi,
    resultOf_dz, resultOf_inf, Bool.and_eq_true, Bool.or_eq_true, beq_iff_eq]
  refine ⟨?dz, ?inf, ?both⟩
  case dz =>
    rintro ⟨rfl | rfl, rfl⟩
    · exact ⟨quotient_zero a, rfl⟩
    · exact ⟨remainder_zero a, rfl⟩
  case inf =>
    rintro ⟨rfl, rfl⟩
    exact ⟨rfl, rfl⟩
  case both =>
    rintro ⟨⟨rfl | rfl, -⟩, hrsqrt, -⟩ <;> exact nomatch hrsqrt

theorem assertReset_atReset (s : State) : s.assertReset.AtReset :=
  ⟨rfl, rfl, rfl, rfl, rfl, rfl, rfl, rfl, rfl, rfl⟩

theorem releaseReset_atReset (s : State) : s.releaseReset.AtReset := assertReset_atReset s

/-- A CORE at its reset values meets the invariant, whatever the level of the reset input. -/
theorem State.AtReset.inv {s : State} (h : s.AtReset) : s.Inv := by
  refine ⟨?_, fun _ => h⟩
  obtain ⟨-, -, -, -, -, hdz, hinf, -⟩ := h
  simp [State.FlagsAgree, hdz, hinf]

/-- Settles O46: the reset state is at the reset values. -/
theorem invariantHoldsAtReset : Obligations.InvariantHoldsAtReset := reset_atReset.inv

/-- A host write keeps the invariant: it leaves the results and their flags, and in reset it is only recorded. -/
theorem hostWrite_inv {s : State} (h : s.Inv) (r : Reg) (v : Word) : (s.hostWrite r v).Inv := by
  obtain ⟨hflags, hheld⟩ := h
  refine ⟨by simpa [State.FlagsAgree] using hflags, fun hreset => ?_⟩
  rw [hostWrite_resetAsserted] at hreset
  rw [hostWrite_in_reset hreset]
  exact hheld hreset

/-- A completion keeps the invariant: nothing is in flight in reset. -/
theorem retire_inv {s : State} {p : Pending} (h : s.Inv) (hp : s.pend = some p) :
    (s.retire (resultOf s.table p.op p.a p.b p.c)).Inv := by
  refine ⟨retire_resultOf_flagsAgree s s.table p.op p.a p.b p.c, fun hreset => ?_⟩
  obtain ⟨-, -, -, -, -, -, -, -, -, hnone⟩ := h.2 hreset
  exact nomatch hp.symm.trans hnone

/-- Settles O47, by the cases of `step_next`: the invariant reads neither the host nor the trace nor the schedule. -/
theorem everyStepKeepsInvariant : Obligations.EveryStepKeepsInvariant := by
  intro s t hinv hstep
  have hpop : s.popInput.Inv := hinv
  rcases step_next hstep with
    ⟨-, ⟨g, rfl⟩ | ⟨r, g, rfl⟩ | ⟨r, v, g, rfl⟩ | ⟨p, hp, -, rfl⟩⟩ | ⟨-, rfl⟩ | ⟨-, rfl⟩
  · exact hpop
  · exact hpop
  · exact hostWrite_inv hpop r v
  · exact retire_inv hpop hp
  · exact (assertReset_atReset s.popInput).inv
  · exact (releaseReset_atReset s.popInput).inv

/-! ### The writers of each piece of state -/

/-- What a host write can do to CORE, each case with the state it records the write in: a request collides, is accepted
or is rejected; a register takes the word, or loses flags; or nothing happens. -/
theorem hostWrite_cases (r : Reg) (v : Word) (s : State) :
    ∃ u : State, s.hostWrite r v = u.record (.write r v) ∧
      ((r = .cmd ∧ s.busy = true ∧ u = s.collide) ∨
       (r = .cmd ∧ s.busy = false ∧ ∃ i, decode v = .command i ∧ u = s.accept i) ∨
       (r = .cmd ∧ s.busy = false ∧ ∃ why, decode v = .reserved why ∧ u = s.reject) ∨
       (r = .a ∧ u = { s with a := v }) ∨ (r = .b ∧ u = { s with b := v }) ∨ (r = .c ∧ u = { s with c := v }) ∨
       (r = .status ∧ u = s.clearFlags v) ∨ u = s) := by
  obtain hs | hs := Bool.eq_false_or_eq_true s.resetAsserted
  · exact ⟨s, hostWrite_in_reset hs r v, by simp⟩
  · refine ⟨s.writeReg r v, hostWrite_out_of_reset hs r v, ?_⟩
    cases r with
    | cmd =>
      rcases commandRequest_cases v s with h | h | h
      · exact .inl ⟨rfl, h⟩
      · exact .inr (.inl ⟨rfl, h⟩)
      · exact .inr (.inr (.inl ⟨rfl, h⟩))
    | _ => simp [State.writeReg]

/-- Settles O48, by the cases of `step_next` and, for a host write, those of `hostWrite_cases`: each case names the
fields it changes. -/
theorem writersOfEachPieceOfState : Obligations.WritersOfEachPieceOfState := by
  intro s t hstep
  rcases step_next hstep with
    ⟨hreset, ⟨g, rfl⟩ | ⟨r, g, rfl⟩ | ⟨r, v, g, rfl⟩ | ⟨p, hp, hexec, rfl⟩⟩ | ⟨hreset, rfl⟩ | ⟨hreset, rfl⟩
  · refine ⟨rfl, (absurd · hreset), fun _ => ?_⟩
    simp +contextual [State.popInput, State.busy]
  · refine ⟨rfl, (absurd · hreset), fun _ => ?_⟩
    simp +contextual [State.popInput, State.busy, State.hostRead]
  · refine ⟨hostWrite_table r v s.popInput, (absurd · hreset), fun _ => ?_⟩
    obtain ⟨u, hu, hcases⟩ := hostWrite_cases r v s.popInput
    simp only [hu]
    rcases hcases with ⟨rfl, hbusy, rfl⟩ | ⟨rfl, hidle, i, hd, rfl⟩ | ⟨rfl, hidle, why, hd, rfl⟩ |
      ⟨rfl, rfl⟩ | ⟨rfl, rfl⟩ | ⟨rfl, rfl⟩ | ⟨rfl, rfl⟩ | rfl
    · obtain ⟨p, hp⟩ : ∃ p, s.pend = some p := busy_eq_true.mp hbusy
      simp [State.popInput, State.busy, hp]
    · have hp : s.pend = none := busy_eq_false.mp hidle
      simp [State.popInput, State.busy, hp, hd]
    · have hp : s.pend = none := busy_eq_false.mp hidle
      simp [State.popInput, State.busy, hp, hd]
    all_goals simp +contextual [State.popInput, State.busy]
  · have hbusy : s.busy = true := busy_eq_true.mpr ⟨p, hp⟩
    refine ⟨rfl, (absurd · hreset), fun _ => ⟨?_, ?_, ?_, fun _ => ⟨hbusy, rfl⟩, ?_, ?_,
      fun _ _ => ⟨rfl, p, hp, hexec⟩, ?_, ?_, ?_, ?_⟩⟩
    all_goals simp +contextual [State.popInput, State.busy, hp]
  · exact ⟨rfl, fun _ => assertReset_atReset s.popInput, (absurd (.inl hreset) ·)⟩
  · exact ⟨rfl, fun _ => releaseReset_atReset s.popInput, (absurd (.inr hreset) ·)⟩

end Sys2Proof.Machine
end

section
/-! The statements about runs (40_command_cycle.md sections 1 to 3, 60_exceptions.md section 4): a command in flight
keeps its latch and the visible results until it completes, it leaves PEND in bounded time, and a run ends. -/

namespace Sys2Proof.Machine

/-- The results the host sees are those of `s`, and `p` is in flight. -/
def State.InFlightWithResultsOf (t s : State) (p : Pending) : Prop :=
  t.pend = some p ∧ t.resLo = s.resLo ∧ t.resHi = s.resHi ∧ t.dz = s.dz ∧ t.inf = s.inf

/-- A host write does not change the latch of a command in flight (R72, R78). -/
theorem hostWrite_pend_of_inFlight {s : State} {p : Pending} (hp : s.pend = some p) (r : Reg) (v : Word) :
    (s.hostWrite r v).pend = some p := by
  have hbusy : s.busy = true := busy_eq_true.mpr ⟨p, hp⟩
  obtain ⟨u, hu, hcases⟩ := hostWrite_cases r v s
  rw [hu, State.record_pend]
  rcases hcases with ⟨-, -, rfl⟩ | ⟨-, hidle, -⟩ | ⟨-, hidle, -⟩ |
    ⟨-, rfl⟩ | ⟨-, rfl⟩ | ⟨-, rfl⟩ | ⟨-, rfl⟩ | rfl
  case inr.inl | inr.inr.inl => exact nomatch hidle.symm.trans hbusy
  all_goals exact hp

/-- A step that is no reset leaves a command in flight and the results as they are, or it completes the command. -/
theorem step_of_inFlight {s t : State} {p : Pending} (hp : s.pend = some p) (hreset : ¬s.Resetting)
    (hstep : step s = .next t) : t.InFlightWithResultsOf s p ∨ exec p.op s.popInput = .next t := by
  rcases step_next hstep with
    ⟨-, ⟨g, rfl⟩ | ⟨r, g, rfl⟩ | ⟨r, v, g, rfl⟩ | ⟨q, hq, hexec, -⟩⟩ | ⟨h, -⟩ | ⟨h, -⟩
  · exact .inl ⟨hp, rfl, rfl, rfl, rfl⟩
  · exact .inl ⟨hp, rfl, rfl, rfl, rfl⟩
  · exact .inl ⟨hostWrite_pend_of_inFlight (s := s.popInput) hp r v, hostWrite_resLo _ _ _, hostWrite_resHi _ _ _,
      hostWrite_dz _ _ _, hostWrite_inf _ _ _⟩
  · obtain rfl : p = q := Option.some.inj (hp.symm.trans hq)
    exact .inr hexec
  · exact absurd (.inl h) hreset
  · exact absurd (.inr h) hreset

/-- Settles O49, by induction on the number of steps: the first step completes the command, or leaves a state from
which the rest of the run starts with the same latch and results. -/
theorem inFlightCommandStaysUntilItCompletes : Obligations.InFlightCommandStaysUntilItCompletes := by
  intro k
  induction k with
  | zero =>
    intro s t p hp _ _ hrun
    obtain rfl : s = t := by simpa using hrun
    exact .inl ⟨hp, rfl, rfl, rfl, rfl⟩
  | succ k ih =>
    intro s t p hp hassert hrelease hrun
    have hreset : ¬s.Resetting :=
      not_or.mpr ⟨(hassert <| List.mem_of_head? ·), (hrelease <| List.mem_of_head? ·)⟩
    cases hstep : step s with
    | fault f => simp [run_succ, hstep] at hrun
    | refused r => simp [run_succ, hstep] at hrun
    | next u =>
      rw [run_succ_of_step hstep] at hrun
      obtain ⟨hup, hlo, hhi, hdz, hinf⟩ | hexec := step_of_inFlight hp hreset hstep
      · have htail := step_inputs hstep
        rcases ih u t p hup (htail ▸ fun h => hassert (List.mem_of_mem_tail h))
            (htail ▸ fun h => hrelease (List.mem_of_mem_tail h)) hrun with
          ⟨htp, hlo', hhi', hdz', hinf'⟩ | ⟨j, hj, w, v, hw, hwp, hlo', hhi', hdz', hinf', hexec, hv⟩
        · exact .inl ⟨htp, hlo'.trans hlo, hhi'.trans hhi, hdz'.trans hdz, hinf'.trans hinf⟩
        · exact .inr ⟨j + 1, Nat.succ_lt_succ hj, w, v, (run_succ_of_step hstep j).trans hw, hwp, hlo'.trans hlo,
            hhi'.trans hhi, hdz'.trans hdz, hinf'.trans hinf, hexec, (run_succ_of_step hstep (j + 1)).trans hv⟩
      · exact .inr ⟨0, Nat.succ_pos k, s, u, rfl, hp, rfl, rfl, rfl, rfl, hexec, (run_one s).trans hstep⟩

/-- Settles O50, by induction on the inputs that wait: each step takes one off, and when none is left the command
completes. -/
theorem inFlightCommandLeavesWithinSchedule : Obligations.InFlightCommandLeavesWithinSchedule := by
  intro s
  induction hn : s.inputs.length generalizing s with
  | zero =>
    intro p hp
    have hstep := step_inFlight_of_no_inputs hp (List.length_eq_zero_iff.mp hn)
    exact ⟨1, le_rfl, .inl ⟨_, (run_one s).trans (hstep.trans (exec_inFlight hp)), rfl⟩⟩
  | succ n ih =>
    intro p hp
    cases hstep : step s with
    | fault f => exact ⟨1, by omega, .inr (.inl ⟨f, (run_one s).trans hstep⟩)⟩
    | refused r => exact ⟨1, by omega, .inr (.inr (by rw [run_one, hstep, step_refused hstep]))⟩
    | next t =>
      cases hq : t.pend with
      | none => exact ⟨1, by omega, .inl ⟨t, (run_one s).trans hstep, hq⟩⟩
      | some q =>
        obtain ⟨k, hk, hend⟩ := ih t (by rw [step_inputs hstep, List.length_tail, hn]; rfl) q hq
        exact ⟨k + 1, by omega, run_succ_of_step hstep k ▸ hend⟩

/-- With an empty schedule a machine whose run has ended stays where it is (R82, R131). -/
theorem step_of_final {s : State} (hfinal : s.final = true) (h : s.inputs = []) : step s = .next s := by
  obtain ⟨hhalt, hidle⟩ : s.host.halted = true ∧ s.pend = none := by simpa [State.final] using hfinal
  simp [step, turn, h, defaultTurn, busy_eq_false.mpr hidle, hostTurn, hhalt]

/-- Settles O51: the step is the completion, which empties PEND and leaves the host halted and the schedule empty. -/
theorem runEndsAfterTheLastCompletion : Obligations.RunEndsAfterTheLastCompletion := by
  intro s p hhalt hp h
  have hstep := (step_inFlight_of_no_inputs hp h).trans (exec_inFlight hp)
  have hfinal (r : Result) : (s.retire r).final = true := by simp [State.final, hhalt]
  exact ⟨by simp [State.final, hp], _, hstep, hfinal _, step_of_final (hfinal _) h⟩

end Sys2Proof.Machine
end

section
/-! The statements about the host-script language (30_encoding.md section 4): what a statement does on the host's turn,
the expansions of the pseudo-instructions, and the branch targets of an assembled program. -/

namespace Sys2Proof.Machine

/-! ### Statements -/

/-- A host input runs the statement at `hpc` of a host that has not halted (R66). -/
theorem step_host {s : State} {st : Stmt Nat} {rest : List Input} (h : s.inputs = .host :: rest)
    (hrun : s.host.halted = false) (hst : s.host.program[s.host.hpc]? = some st) :
    step s = runStmt st { s with inputs := rest } := by
  simp [step, turn, h, runInput, hostTurn, hrun, hst]

/-- A host write and the advance of the statement counter, as one update of the host. -/
theorem hostWrite_advance (r : Reg) (v : Word) (s : State) :
    (s.hostWrite r v).advance = { s.hostWrite r v with host := { s.host with hpc := s.host.hpc + 1 } } := by
  rw [State.advance, hostWrite_host]

/-- What a read returns does not depend on the schedule. -/
theorem busRead_withInputs (r : Reg) (s : State) (rest : List Input) :
    State.busRead r { s with inputs := rest } = s.busRead r := by
  cases r <;> rfl

theorem branchOn_of_unwritten {s : State} {x : Var} (h : s.host.vars[x] = none) (want : Bool) (n : Fin 32) (l : Nat) :
    branchOn want x n l s = .fault .unwrittenVariable := by
  simp [branchOn, h]

theorem branchOn_of_written {s : State} {x : Var} {v : Word} (h : s.host.vars[x] = some v) (want : Bool) (n : Fin 32)
    (l : Nat) :
    branchOn want x n l s =
      .next { s with host := { s.host with hpc := if v.getLsbD n = want then l else s.host.hpc + 1 } } := by
  simp only [branchOn, h]
  split_ifs <;> rfl

/-- Settles O53: the host's turn is `runStmt`, one equation for each form of statement. -/
theorem scriptStatementsRun : Obligations.ScriptStatementsRun := by
  intro s st rest hin hrun hst u next
  rw [step_host hin hrun hst]
  refine ⟨?imm, ?mnemonic, ?var, ?unwritten, ?rd, fun x n l v hv => ⟨?bs, ?bc⟩, fun x n l hv => ?branch, ?halt⟩
  case imm =>
    rintro r v rfl
    exact congrArg _ (hostWrite_advance r v u)
  case mnemonic =>
    rintro r m rfl
    exact congrArg _ (hostWrite_advance r (encode m) u)
  case var =>
    rintro r x v rfl hv
    have hval : ScriptHost.value u.host (.var x) = some v := hv
    rw [runStmt, hval]
    exact congrArg _ (hostWrite_advance r v u)
  case unwritten =>
    rintro r x rfl hv
    have hval : ScriptHost.value u.host (.var x) = none := hv
    rw [runStmt, hval]
  case rd =>
    rintro x r rfl
    rw [runStmt, busRead_withInputs]
    rfl
  case bs =>
    rintro rfl
    exact branchOn_of_written (s := u) hv true n l
  case bc =>
    rintro rfl
    rw [runStmt, branchOn_of_written (s := u) hv false n l]
    cases v.getLsbD n <;> rfl
  case branch =>
    rintro (rfl | rfl) <;> exact branchOn_of_unwritten (s := u) hv _ n l
  case halt =>
    rintro rfl
    rfl

/-! ### Expansions -/

/-- Settles O55: the expansions are those of `Line.expand`, and the check of a line is compared for each command. -/
theorem pseudoInstructionsExpand : Obligations.PseudoInstructionsExpand := by
  intro n m x y z
  refine ⟨rfl, rfl, rfl, rfl, rfl, rfl, ?_, ?_, ?_⟩ <;> cases m <;> rfl

/-! ### Branch targets -/

/-- A target before resolution is a label, or a statement number below `n`. -/
def TargetBelow (n : Nat) : Label ⊕ Nat → Prop
  | .inl _ => True
  | .inr m => m < n

/-- The branch of an unresolved statement, if it is one, has a target below `n`. -/
def BranchBelow (n : Nat) : Stmt (Label ⊕ Nat) → Prop
  | .bs _ _ l => TargetBelow n l
  | .bc _ _ l => TargetBelow n l
  | .wr _ _ => True
  | .rd _ _ => True
  | .halt => True

theorem TargetBelow.mono {n n' : Nat} (h : n ≤ n') {l : Label ⊕ Nat} (hl : TargetBelow n l) : TargetBelow n' l := by
  cases l with
  | inl _ => trivial
  | inr m => exact Nat.lt_of_lt_of_le hl h

theorem BranchBelow.mono {n n' : Nat} (h : n ≤ n') {st : Stmt (Label ⊕ Nat)} (hst : BranchBelow n st) :
    BranchBelow n' st := by
  cases st with
  | bs _ _ _ => exact TargetBelow.mono h hst
  | bc _ _ _ => exact TargetBelow.mono h hst
  | _ => trivial

/-- Every line stands for at least one statement (R67). -/
theorem expand_length_pos (n : Nat) (line : Line) : 0 < (line.expand n).length := by
  cases line with
  | stmt st => cases st <;> exact Nat.one_pos
  | _ => exact Nat.succ_pos _

/-- The branches an expansion makes stay inside it (R67). -/
theorem expand_branchBelow (n : Nat) (line : Line) :
    ∀ st ∈ line.expand n, BranchBelow (n + (line.expand n).length) st := by
  cases line with
  | stmt st => cases st <;> simp [Line.expand, BranchBelow, TargetBelow]
  | _ => simp [Line.expand, BranchBelow, TargetBelow]

/-- Expanded from statement number `n` on, a text branches only to labels and to numbers below its end, and its labels
stand for numbers below its end. -/
theorem expandLines_below (text : List LabelledLine) (n : Nat) :
    (∀ st ∈ (expandLines n text).1, BranchBelow (n + (expandLines n text).1.length) st) ∧
    (∀ x ∈ (expandLines n text).2, x.2 < n + (expandLines n text).1.length) := by
  induction text generalizing n with
  | nil => simp [expandLines]
  | cons l rest ih =>
    obtain ⟨hstmts, hlabels⟩ := ih (n + (l.line.expand n).length)
    have hpos := expand_length_pos n l.line
    simp only [expandLines, List.length_append, ← Nat.add_assoc, List.mem_append]
    refine ⟨?_, ?_⟩
    · rintro st (hst | hst)
      · exact (expand_branchBelow n l.line st hst).mono (Nat.le_add_right _ _)
      · exact hstmts st hst
    · rintro x (hx | hx)
      · cases hl : l.label with
        | none => simp [hl] at hx
        | some label =>
          obtain rfl : x = (label, n) := by simpa [hl] using hx
          exact Nat.lt_add_right _ (Nat.lt_add_of_pos_right hpos)
      · exact hlabels x hx

/-- Resolving a target below `n`, with labels that stand below `n`, gives a statement number below `n`. -/
theorem resolveTarget_lt {labels : List (Label × Nat)} {n m : Nat} {l : Label ⊕ Nat}
    (hlabels : ∀ x ∈ labels, x.2 < n) (hl : TargetBelow n l) (h : resolveTarget labels l = some m) : m < n := by
  cases l with
  | inl label =>
    obtain ⟨before, after, hsplit, -⟩ := List.lookup_eq_some_iff.mp h
    exact hlabels (label, m) (hsplit ▸ List.mem_append_cons_self)
  | inr k => exact Option.some.inj h ▸ hl

theorem resolveStmt_targetBelow {labels : List (Label × Nat)} {n : Nat} {st : Stmt (Label ⊕ Nat)} {st' : Stmt Nat}
    (hlabels : ∀ x ∈ labels, x.2 < n) (hst : BranchBelow n st) (h : resolveStmt labels st = some st') :
    st'.targetBelow n = true := by
  cases st with
  | wr r src => exact Option.some.inj h ▸ rfl
  | rd t r => exact Option.some.inj h ▸ rfl
  | halt => exact Option.some.inj h ▸ rfl
  | bs t b l =>
    obtain ⟨m, hm, rfl⟩ := Option.map_eq_some_iff.mp h
    exact decide_eq_true (resolveTarget_lt hlabels hst hm)
  | bc t b l =>
    obtain ⟨m, hm, rfl⟩ := Option.map_eq_some_iff.mp h
    exact decide_eq_true (resolveTarget_lt hlabels hst hm)

/-- A list that `mapM` answers in `Option` is as long as its source, and each element comes from one of the source. -/
theorem length_eq_and_mem_of_mapM_eq_some {α β : Type} {f : α → Option β} {l : List α} {r : List β}
    (h : l.mapM f = some r) : r.length = l.length ∧ ∀ b ∈ r, ∃ a ∈ l, f a = some b := by
  induction l generalizing r with
  | nil =>
    obtain rfl : [] = r := by simpa using h
    simp
  | cons a l ih =>
    obtain ⟨b, hb, r', hr, rfl⟩ : ∃ b, f a = some b ∧ ∃ r', l.mapM f = some r' ∧ b :: r' = r := by
      simpa [List.mapM_cons, Option.bind_eq_some_iff] using h
    obtain ⟨hlen, hmem⟩ := ih hr
    refine ⟨congrArg (· + 1) hlen, List.forall_mem_cons.mpr ⟨⟨a, List.mem_cons_self, hb⟩, fun x hx => ?_⟩⟩
    obtain ⟨y, hy, hyx⟩ := hmem x hx
    exact ⟨y, List.mem_cons_of_mem a hy, hyx⟩

/-- Settles O54: resolution keeps the number of statements, and every label and expanded branch stands below it. -/
theorem assembledProgramsBranchInside : Obligations.AssembledProgramsBranchInside := by
  intro text p h
  simp only [assemble, Option.ite_none_right_eq_some] at h
  obtain ⟨-, h⟩ := h
  obtain ⟨hstmts, hlabels⟩ := expandLines_below text 0
  rw [Nat.zero_add] at hstmts hlabels
  obtain ⟨hlen, hmem⟩ := length_eq_and_mem_of_mapM_eq_some h
  refine List.all_eq_true.mpr fun st' hst' => ?_
  obtain ⟨st, hst, hres⟩ := hmem st' hst'
  rw [hlen]
  exact resolveStmt_targetBelow hlabels (hstmts st hst) hres

end Sys2Proof.Machine
end

section
/-! The statements about the stages of RSQRT (45_rsqrt.md): the estimate of stages 1 to 3 as a number, the completion
in natural numbers, and the widths of stage 4. -/

namespace Sys2Proof.Machine

/-! ### The difference of table entries -/

section
variable {table : Table} {e f : Fin 32}

/-- At the end of the table there is no next entry (R110). -/
theorem rsqrtDelta_last (he : e.val = 31) : rsqrtDelta table e = 0 := dif_pos he

/-- Before the end the difference is to the next entry, modulo 2^32 (R110, assumption 8). -/
theorem rsqrtDelta_of_succ (hf : f.val = e.val + 1) : rsqrtDelta table e = table[e] - table[f] := by
  have he : e.val ≠ 31 := by omega
  simp only [rsqrtDelta, dif_neg he, Fin.getElem_fin, hf]

/-- Where the table does not increase, the difference does not borrow. -/
theorem rsqrtDelta_toNat_of_le (hf : f.val = e.val + 1) (hle : table[f] ≤ table[e]) :
    (rsqrtDelta table e).toNat = table[e].toNat - table[f].toNat := by
  rw [rsqrtDelta_of_succ hf, BitVec.toNat_sub_of_le hle]

/-- In a table that does not increase the difference is no more than the entry. -/
theorem TableNonIncreasing.rsqrtDelta_le (h : TableNonIncreasing table) (he : 1 ≤ e.val) :
    (rsqrtDelta table e).toNat ≤ table[e].toNat := by
  obtain hlast | hlt : e.val = 31 ∨ e.val + 1 < 32 := by omega
  · rw [rsqrtDelta_last hlast]
    exact Nat.zero_le _
  · have hle := h e ⟨e.val + 1, hlt⟩ he (Fin.le_def.mpr (Nat.le_succ _))
    rw [rsqrtDelta_toNat_of_le rfl hle]
    exact Nat.sub_le _ _

end

/-! ### The estimate as a number -/

section
variable {x : Word} {e : Fin 32} {table : Table}

/-- The estimate at the exponent of the band `x` lies in (R106). -/
theorem rsqrtEstimate_eq (table : Table) (hlo : 2 ^ e.val ≤ x.toNat) (hhi : x.toNat < 2 ^ (e.val + 1)) :
    rsqrtEstimate table x = rsqrtEstimateAt table x e := by
  rw [rsqrtEstimate, rsqrtExp_eq hlo hhi]

/-- The fraction of a power of two is 0 (R109). -/
theorem rsqrtFrac_two_pow (hx : x.toNat = 2 ^ e.val) : rsqrtFrac x e.val = 0 := by
  have hhi : x.toNat < 2 ^ (e.val + 1) := hx.trans_lt (Nat.pow_lt_pow_right (by decide) (Nat.lt_succ_self _))
  refine BitVec.eq_of_toNat_eq ?_
  rw [rsqrtFrac_toNat hhi, hx]
  simp

/-- Interpolating takes nothing off an entry where the fraction is 0. -/
theorem interpolation_zero (delta : Word) : trunc32 (shiftRight64 (mulWide delta 0) 16) = 0 := by
  simp [mulWide, shiftRight64, trunc32]

/-- What the interpolation takes off an entry fits a word (R110). -/
theorem interpolation_toNat (delta : Word) (hhi : x.toNat < 2 ^ (e.val + 1)) :
    (trunc32 (shiftRight64 (mulWide delta (rsqrtFrac x e.val)) 16)).toNat =
      delta.toNat * ((x.toNat - 2 ^ e.val) * 2 ^ 16 / 2 ^ e.val) / 2 ^ 16 := by
  have hdelta := delta.isLt
  have hfrac := rsqrtFrac_lt hhi
  rw [trunc32_toNat, shiftRight64_of_lt (by decide), mulWide, ← rsqrtFrac_toNat hhi]
  refine Nat.mod_eq_of_lt (Nat.div_lt_of_lt_mul ?_)
  calc delta.toNat * (rsqrtFrac x e.val).toNat
    _ ≤ delta.toNat * 2 ^ 16 := Nat.mul_le_mul_left _ hfrac.le
    _ < 2 ^ 16 * 2 ^ 32 := by omega

/-- The estimate is the interpolated entry for a power of two too, where interpolating changes nothing (R109). -/
theorem rsqrtEstimateAt_eq_sub (table : Table) (hlo : 2 ^ e.val ≤ x.toNat) :
    rsqrtEstimateAt table x e =
      table[e] - trunc32 (shiftRight64 (mulWide (rsqrtDelta table e) (rsqrtFrac x e.val)) 16) := by
  unfold rsqrtEstimateAt
  split_ifs with h
  · rfl
  · rw [rsqrtFrac_two_pow (Nat.le_antisymm (Nat.not_lt.mp h) hlo), interpolation_zero]
    exact (BitVec.sub_zero _).symm

/-- Where the difference is no more than the entry, the estimate is the exact interpolated value. -/
theorem rsqrtEstimate_toNat (hlo : 2 ^ e.val ≤ x.toNat) (hhi : x.toNat < 2 ^ (e.val + 1))
    (hdelta : (rsqrtDelta table e).toNat ≤ table[e].toNat) :
    (rsqrtEstimate table x).toNat = table[e].toNat -
      (rsqrtDelta table e).toNat * ((x.toNat - 2 ^ e.val) * 2 ^ 16 / 2 ^ e.val) / 2 ^ 16 := by
  have hle := (interpolation_le (rsqrtDelta table e) hhi).trans hdelta
  rw [rsqrtEstimate_eq table hlo hhi, rsqrtEstimateAt_eq_sub table hlo,
    BitVec.toNat_sub_of_le (BitVec.le_def.mpr hle), interpolation_toNat _ hhi]

end

/-- Settles O25: the fraction's value and bound, and the estimate at the exponent of the band. -/
theorem interpolationFractionIsExact : Obligations.InterpolationFractionIsExact := by
  intro x e hlo hhi
  have hwidth : 2 ^ e.val ≤ 2 ^ 31 := Nat.pow_le_pow_right (by decide) (by omega)
  refine ⟨?_, rsqrtFrac_toNat hhi, Nat.le_of_lt_succ (rsqrtFrac_lt hhi), fun table => rsqrtEstimate_eq table hlo hhi,
    fun hx => ?power⟩
  · rw [Nat.pow_succ] at hhi
    omega
  case power =>
    have hfrac := rsqrtFrac_two_pow hx
    refine ⟨hfrac, fun y delta => ?_⟩
    rw [hfrac, interpolation_zero]
    exact BitVec.sub_zero y

/-! ### The estimate with the default TABLE -/

/-- The differences of the default TABLE are at most that of entries 0 and 1 (R110). -/
theorem rsqrtDelta_default_le : ∀ e : Fin 32, (rsqrtDelta Config.rsqrtTable e).toNat ≤ 19195 := by
  decide

/-- A difference times a fraction below 1 in Q16 takes off less than the difference. -/
theorem mul_div_two_pow_lt {delta frac : Nat} (hdelta : 0 < delta) (hfrac : frac < 2 ^ 16) :
    delta * frac / 2 ^ 16 < delta := by
  rw [Nat.div_lt_iff_lt_mul (by decide)]
  exact Nat.mul_lt_mul_of_pos_left hfrac hdelta

/-- Settles O26: the entries decrease strictly, so the interpolation takes off less than the difference. -/
theorem estimateLiesBetweenTableEntries : Obligations.EstimateLiesBetweenTableEntries := by
  intro x e hx hlo hhi
  have hfrac := rsqrtFrac_lt hhi
  have hdelta := rsqrtDelta_default_le e
  have hvalue := rsqrtEstimate_toNat hlo hhi (rsqrtDelta_lt_entry e).le
  rw [← rsqrtFrac_toNat hhi] at hvalue
  refine ⟨rsqrtExp_eq hlo hhi, hdelta, ?product, BitVec.le_def.mpr (hvalue ▸ Nat.sub_le _ _), fun f hf => ?next,
    fun he => rsqrtEstimate_last_band (by simpa [he] using hlo)⟩
  case product =>
    calc (rsqrtDelta Config.rsqrtTable e).toNat * (rsqrtFrac x e.val).toNat
      _ ≤ 19195 * 2 ^ 16 := Nat.mul_le_mul hdelta hfrac.le
      _ < 2 ^ 31 := by decide
  case next =>
    have hlt : Config.rsqrtTable[f].toNat < Config.rsqrtTable[e].toNat :=
      rsqrtTable_strictAnti (Fin.lt_def.mpr (by omega))
    have hsub := rsqrtDelta_toNat_of_le hf (BitVec.le_def.mpr hlt.le)
    have htaken := mul_div_two_pow_lt (delta := (rsqrtDelta Config.rsqrtTable e).toNat) (by omega) hfrac
    rw [BitVec.lt_def, hvalue]
    omega

/-! ### Monotonicity of the estimate -/

/-- The band of a word does not go down as the word grows. -/
theorem rsqrtExp_le_of_le {x y : Word} (hx : x ≠ 0) (hxy : x.toNat ≤ y.toNat) (hy : y ≠ 0) :
    rsqrtExp x ≤ rsqrtExp y := by
  have hlt := (rsqrtExp_bounds hx).1.trans_lt (hxy.trans_lt (rsqrtExp_bounds hy).2)
  exact Fin.le_def.mpr (Nat.le_of_lt_succ ((Nat.pow_lt_pow_iff_right (by decide)).mp hlt))

/-- From 2 on the exponent is at least 1, so entry 0 is not read (R108). -/
theorem one_le_rsqrtExp {x : Word} (hx : 2 ≤ x.toNat) : 1 ≤ (rsqrtExp x).val := by
  have hne : x ≠ 0 := by bv_omega
  have hlt : 2 ^ 1 < 2 ^ ((rsqrtExp x).val + 1) := hx.trans_lt (rsqrtExp_bounds hne).2
  exact Nat.le_of_lt_succ ((Nat.pow_lt_pow_iff_right (by decide)).mp hlt)

/-- Settles O27: in one band the fraction grows with the word; the estimate in a later band is at most that band's
entry, and so at most the entry that bounds the earlier band from below. -/
theorem estimateIsNonIncreasing : Obligations.EstimateIsNonIncreasing := by
  intro table htable x y hx hxy
  have hxy : x.toNat ≤ y.toNat := hxy
  have hx0 : x ≠ 0 := by bv_omega
  have hy0 : y ≠ 0 := by bv_omega
  obtain ⟨hxlo, hxhi⟩ := rsqrtExp_bounds hx0
  obtain ⟨hylo, hyhi⟩ := rsqrtExp_bounds hy0
  have hex := one_le_rsqrtExp hx
  have hey := one_le_rsqrtExp (hx.trans hxy)
  have hxvalue := rsqrtEstimate_toNat hxlo hxhi (htable.rsqrtDelta_le hex)
  have hyvalue := rsqrtEstimate_toNat hylo hyhi (htable.rsqrtDelta_le hey)
  rw [BitVec.le_def]
  obtain heq | hlt := (rsqrtExp_le_of_le hx0 hxy hy0).eq_or_lt
  · rw [hxvalue, hyvalue, heq]
    gcongr
  · have hsucc : (rsqrtExp x).val + 1 < 32 := by omega
    have hnext := htable (rsqrtExp x) ⟨_, hsucc⟩ hex (Fin.le_def.mpr (Nat.le_succ _))
    have hdelta := rsqrtDelta_toNat_of_le rfl hnext
    have hlow := (rsqrtEstimateAt_between hxhi (htable.rsqrtDelta_le hex)).1
    calc (rsqrtEstimate table y).toNat
      _ ≤ table[rsqrtExp y].toNat := hyvalue ▸ Nat.sub_le _ _
      _ ≤ table[(rsqrtExp x).val + 1].toNat := htable ⟨_, hsucc⟩ (rsqrtExp y) (Nat.le_add_left 1 _) hlt
      _ = table[rsqrtExp x].toNat - (rsqrtDelta table (rsqrtExp x)).toNat := by
        rw [hdelta, Nat.sub_sub_self hnext]; rfl
      _ ≤ (rsqrtEstimate table x).toNat := hlow

/-! ### Newton's iteration -/

/-- `xy2` of R111 as a number, with both truncations. -/
theorem newtonXy2_toNat (x y : Word) :
    (newtonXy2 x y).toNat = x.toNat * (y.toNat * y.toNat % 2 ^ 32) / 2 ^ 16 % 2 ^ 32 := by
  simp only [newtonXy2, newtonY2, mulWide, trunc32_toNat, shiftRight64_of_lt (show 16 < 64 by decide)]

section
variable {x y : Word}

/-- In the range `y2` fits a word (R113). -/
theorem NewtonRange.sq_lt (h : NewtonRange x y) : y.toNat * y.toNat < 2 ^ 32 :=
  (Nat.mul_le_mul h.le h.le).trans_lt (by decide)

/-- In the range `xy2` is below 3 in Q16 (R113). -/
theorem NewtonRange.mul_sq_div_lt (h : NewtonRange x y) : x.toNat * (y.toNat * y.toNat) / 2 ^ 16 < 196608 := by
  have := h.mul_sq_le
  omega

/-- In the range the truncations of `y2` and `xy2` drop nothing (R113). -/
theorem NewtonRange.newtonXy2_toNat_eq (h : NewtonRange x y) :
    (newtonXy2 x y).toNat = x.toNat * (y.toNat * y.toNat) / 2 ^ 16 := by
  rw [newtonXy2_toNat, Nat.mod_eq_of_lt h.sq_lt, Nat.mod_eq_of_lt (h.mul_sq_div_lt.trans (by decide))]

/-- In the range the subtraction that forms `f` does not borrow (R113). -/
theorem NewtonRange.newtonF_toNat_eq (h : NewtonRange x y) :
    (newtonF x y).toNat = 196608 - x.toNat * (y.toNat * y.toNat) / 2 ^ 16 := by
  have hlt := h.mul_sq_div_lt
  rw [← h.newtonXy2_toNat_eq] at hlt ⊢
  exact BitVec.toNat_sub_of_le (BitVec.le_def.mpr hlt.le)

end

/-- Settles O28: the values both iterations start from are in `NewtonRange`. -/
theorem newtonTruncationsDropNothing : Obligations.NewtonTruncationsDropNothing := by
  intro x y hx hy
  have hestimate := rsqrtEstimate_newtonRange hx
  have h : NewtonRange x y := by
    obtain rfl | rfl := hy
    · exact hestimate
    · exact hestimate.after_newton hx
  exact ⟨h.sq_lt, h.mul_sq_div_lt, h.newtonXy2_toNat_eq, h.newtonF_toNat_eq, h.newton_toNat_eq⟩

/-- Settles O30: the eighteen results are computed. -/
theorem refinedResultIsNotMonotone : Obligations.RefinedResultIsNotMonotone := by
  unfold Obligations.RefinedResultIsNotMonotone
  decide

/-! ### Completion in natural numbers -/

/-- The interpolated entry in natural numbers, the difference taken modulo 2^32 (R110, assumption 8). -/
theorem rsqrtEstimate_toNat_of_lt (table : Table) {x : Word} {e : Fin 32} (hlt : 2 ^ e.val < x.toNat)
    (hhi : x.toNat < 2 ^ (e.val + 1)) :
    (rsqrtEstimate table x).toNat =
      (table[e].toNat + (2 ^ 32 - (rsqrtDelta table e).toNat *
        ((x.toNat - 2 ^ e.val) * 2 ^ 16 / 2 ^ e.val) / 2 ^ 16 % 2 ^ 32)) % 2 ^ 32 := by
  rw [rsqrtEstimate_eq table hlt.le hhi, rsqrtEstimateAt_eq_sub table hlt.le, BitVec.toNat_sub,
    ← interpolation_toNat _ hhi, Nat.mod_eq_of_lt (BitVec.isLt _), Nat.add_comm]

/-- The estimate of a power of two is its entry (R108). -/
theorem rsqrtEstimate_of_two_pow (table : Table) {x : Word} {e : Fin 32} (hx : x.toNat = 2 ^ e.val)
    (hhi : x.toNat < 2 ^ (e.val + 1)) : rsqrtEstimate table x = table[e] := by
  rw [rsqrtEstimate_eq table hx.ge hhi, rsqrtEstimateAt, if_neg hx.not_gt]

/-- The difference in natural numbers: 0 at the end of the table, and modulo 2^32 before it (R110, assumption 8). -/
theorem eq_rsqrtDelta_toNat {table : Table} {e : Fin 32} {delta : Nat} (hlast : e.val = 31 → delta = 0)
    (hnext : ∀ f : Fin 32, f.val = e.val + 1 → delta = (table[e].toNat + (2 ^ 32 - table[f].toNat)) % 2 ^ 32) :
    delta = (rsqrtDelta table e).toNat := by
  obtain he | he : e.val = 31 ∨ e.val + 1 < 32 := by omega
  · rw [hlast he, rsqrtDelta_last he]
    rfl
  · rw [hnext ⟨_, he⟩ rfl, rsqrtDelta_of_succ (f := ⟨_, he⟩) rfl, BitVec.toNat_sub, Nat.add_comm]

/-- Settles O11: the general path is two iterations from the estimate, each of them `newton_toNat` in numbers. -/
theorem rsqrtCompletesWithTwoNewtonIterations : Obligations.RsqrtCompletesWithTwoNewtonIterations := by
  refine ⟨rfl, fun s a b c hp => ⟨?zero, ?one, fun e delta y ha hlo hhi hlast hnext hpower hlt => ?general⟩⟩
  case zero =>
    rintro rfl
    exact exec_rsqrt_inFlight hp
  case one =>
    rintro rfl
    exact exec_rsqrt_inFlight hp
  case general =>
    intro refine
    have hrefine (w : Word) : refine w.toNat = (newton a w).toNat := by
      rw [newton_toNat, Nat.add_comm (2 ^ 32 - _)]
    have hy : y = (rsqrtEstimate s.table a).toNat := by
      obtain heq | hgt := hlo.eq_or_lt
      · rw [hpower heq.symm, rsqrtEstimate_of_two_pow s.table heq.symm hhi]
      · rw [hlt hgt, eq_rsqrtDelta_toNat hlast hnext, rsqrtEstimate_toNat_of_lt s.table hgt hhi]
    have hinf : (a == 0) = false := beq_false_of_ne (by bv_omega)
    rw [exec_rsqrt_inFlight hp, rsqrt_of_two_le s.table ha, hinf, hy, hrefine, hrefine, BitVec.ofNat_toNat,
      BitVec.setWidth_eq]

end Sys2Proof.Machine
end
